-- ==== Sys2Proof/Word.lean ====
section
/-! DEFINITION. The widths of the block: registers and command words are 32 bits (00_scope.md R10), every number is
unsigned (R11). Only the types stand here. -/

namespace Sys2Proof

/-- A register of the register file, or a command word (00 R10, 30 R110). -/
abbrev Word := BitVec 32

/-- A byte lane of a word (20 R86). -/
abbrev Byte := BitVec 8

/-- The number of an operand register, a 4-bit field of a command word (30 R116). -/
abbrev RegNum := BitVec 4

/-- The `idx` field of a command word, a port or window index as the command says (30 R114). -/
abbrev Index := BitVec 8

/-- A byte offset into the register file, `off12` or a bus address (20 R80). -/
abbrev Offset := BitVec 12

end Sys2Proof
end

