-- ==== Sys2Proof/Syntax.lean ====
section
/-! DEFINITION. The 21 commands, one constructor per row of spec/opcode_table.json (30_encoding.md R117). Operands are the
fields of the formats R to Z (R111 to R115) that a command uses; bits a format calls zero are no operands. -/

namespace Sys2Proof

/-- A command (30 R117). `mode` of SCLFAC and `s` of CHRDIM keep their two bits: the code 3 of each is reserved, which
WellFormed says and the meaning answers with `ILLCMD` (30 R118). -/
inductive Instr where
  /-- NOP (40 R140) -/
  | nop
  /-- LI rd, imm16 (40 R142) -/
  | li (rd : RegNum) (imm : BitVec 16)
  /-- LIH rd, imm16 (40 R144) -/
  | lih (rd : RegNum) (imm : BitVec 16)
  /-- LDR rd, [off12] (40 R146) -/
  | ldr (rd : RegNum) (off : Offset)
  /-- STR rs, [off12] (40 R148) -/
  | str (rs : RegNum) (off : Offset)
  /-- SCLMODE rd, rs1, rs2 (41 R162) -/
  | sclmode (rd rs1 rs2 : RegNum)
  /-- PRESCL rd, rs1, rs2 with `fn[0] = avg` (41 R170) -/
  | prescl (rd rs1 rs2 : RegNum) (avg : Bool)
  /-- SCLFAC rd, rs1, rs2 with `fn[1:0] = mode`, `fn[2] = bil` (41 R180) -/
  | sclfac (rd rs1 rs2 : RegNum) (mode : BitVec 2) (bil : Bool)
  /-- SCLAUTO rd, rs1, rs2 with `fn[2] = bil` (41 R188) -/
  | sclauto (rd rs1 rs2 : RegNum) (bil : Bool)
  /-- CHRDIM rd, rs1, s with `fn[1:0] = s` (41 R192) -/
  | chrdim (rd rs1 : RegNum) (sub : BitVec 2)
  /-- WINDIS w (42 R202) -/
  | windis (w : Index)
  /-- ASSIGN p (42 R210) -/
  | assign (p : Index)
  /-- PMUXWAIT (42 R220) -/
  | pmuxwait
  /-- DERIVE (43 R250) -/
  | derive
  /-- BLEND p (43 R260) -/
  | blend (p : Index)
  /-- CLUBLEND w (43 R275) -/
  | clublend (w : Index)
  /-- PENDBITS rd, p (44 R290) -/
  | pendbits (rd : RegNum) (p : Index)
  /-- CFGDONE rs, p (44 R300) -/
  | cfgdone (rs : RegNum) (p : Index)
  /-- FSWAIT p (`c = 0`) and FSWAIT.C p (`c = 1`) (44 R305) -/
  | fswait (c : Bool) (p : Index)
  /-- STANDBY p (44 R310) -/
  | standby (p : Index)
  /-- ENABLE p (44 R315) -/
  | enable (p : Index)
deriving DecidableEq, Repr, Inhabited

end Sys2Proof
end

