-- ==== Sys2Proof/WellFormed.lean ====
section
/-! DEFINITION. Which terms of `Instr` are commands of the map: all but the two with a reserved field value (30_encoding.md
R118). An index out of range is no defect of the word: it is a `BADINDEX` fault of the command (30 R121). -/

namespace Sys2Proof

/-- The reserved field values of 30 R118: SCLFAC with `mode = 3` and CHRDIM with `s = 3` are illegal. -/
def Instr.wellFormed : Instr → Bool
  | .sclfac _ _ _ mode _ => mode != 3#2
  | .chrdim _ _ sub => sub != 3#2
  | .nop => true
  | .li _ _ => true
  | .lih _ _ => true
  | .ldr _ _ => true
  | .str _ _ => true
  | .sclmode _ _ _ => true
  | .prescl _ _ _ _ => true
  | .sclauto _ _ _ _ => true
  | .windis _ => true
  | .assign _ => true
  | .pmuxwait => true
  | .derive => true
  | .blend _ => true
  | .clublend _ => true
  | .pendbits _ _ => true
  | .cfgdone _ _ => true
  | .fswait _ _ => true
  | .standby _ => true
  | .enable _ => true

end Sys2Proof
end

