-- ==== Sys2Proof/Decode.lean ====
section
/-! DEFINITION. The decoder of 30_encoding.md R117 to R120, total on any word and on any bytes, and after it the encoder.
A word that is no command is refused with the reason; the machine answers every such reason with `ILLCMD` (30 R120). -/

namespace Sys2Proof

/-- Why a word is no command (30 R120); `truncated` is for a byte string shorter than a word. -/
inductive Reject where
  /-- bits 31:26 are none of the 21 opcodes -/
  | unknownOpcode
  /-- a bit that the format calls zero is 1 -/
  | reservedBits
  /-- SCLFAC with `mode = 3` (30 R118) -/
  | reservedMode
  /-- CHRDIM with `s = 3` (30 R118) -/
  | reservedShift
  /-- fewer than four bytes -/
  | truncated
deriving DecidableEq, Repr

/-- The rows of the opcode map (30 R117). -/
inductive Op where
  | nop | li | lih | ldr | str
  | sclmode | prescl | sclfac | sclauto | chrdim
  | windis | assign | pmuxwait
  | derive | blend | clublend
  | pendbits | cfgdone | fswait | standby | enable
deriving DecidableEq, Repr

/-- The column `op` of 30 R117, bits 31:26 of the word. -/
def Op.code : Op → BitVec 6
  | .nop => 0x00 | .li => 0x01 | .lih => 0x02 | .ldr => 0x03 | .str => 0x04
  | .sclmode => 0x10 | .prescl => 0x11 | .sclfac => 0x12 | .sclauto => 0x13 | .chrdim => 0x14
  | .windis => 0x20 | .assign => 0x21 | .pmuxwait => 0x22
  | .derive => 0x28 | .blend => 0x29 | .clublend => 0x2A
  | .pendbits => 0x30 | .cfgdone => 0x31 | .fswait => 0x32 | .standby => 0x33 | .enable => 0x34

/-- Every row, in the order of 30 R117. -/
def Op.all : List Op :=
  [.nop, .li, .lih, .ldr, .str, .sclmode, .prescl, .sclfac, .sclauto, .chrdim, .windis, .assign, .pmuxwait,
   .derive, .blend, .clublend, .pendbits, .cfgdone, .fswait, .standby, .enable]

/-- The row an opcode names, if any. -/
def Op.ofCode (code : BitVec 6) : Option Op := Op.all.find? fun op => op.code == code

/-- The column `match` of 30 R117. -/
def Op.matchWord : Op → Word
  | .nop => 0x00000000 | .li => 0x04000000 | .lih => 0x08000000 | .ldr => 0x0C000000 | .str => 0x10000000
  | .sclmode => 0x40000000 | .prescl => 0x44000000 | .sclfac => 0x48000000 | .sclauto => 0x4C000000
  | .chrdim => 0x50000000
  | .windis => 0x80000000 | .assign => 0x84000000 | .pmuxwait => 0x88000000
  | .derive => 0xA0000000 | .blend => 0xA4000000 | .clublend => 0xA8000000
  | .pendbits => 0xC0000000 | .cfgdone => 0xC4000000 | .fswait => 0xC8000000 | .standby => 0xCC000000
  | .enable => 0xD0000000

/-- The column `mask` of 30 R117. -/
def Op.maskWord : Op → Word
  | .nop => 0xFFFFFFFF | .li => 0xFC3F0000 | .lih => 0xFC3F0000 | .ldr => 0xFC3FF000 | .str => 0xFC3FF000
  | .sclmode => 0xFC003FFF | .prescl => 0xFC003FFE | .sclfac => 0xFC003FF8 | .sclauto => 0xFC003FFB
  | .chrdim => 0xFC03FFFC
  | .windis => 0xFFFFFF00 | .assign => 0xFFFFFF00 | .pmuxwait => 0xFFFFFFFF
  | .derive => 0xFFFFFFFF | .blend => 0xFFFFFF00 | .clublend => 0xFFFFFF00
  | .pendbits => 0xFC3FFF00 | .cfgdone => 0xFC3FFF00 | .fswait => 0xFFFFFE00 | .standby => 0xFFFFFF00
  | .enable => 0xFFFFFF00

/-- `bits & mask = match`: the word is one of the row's (30 R117). -/
def Op.matches (op : Op) (bits : Word) : Bool := (bits &&& op.maskWord) == op.matchWord

/-- `bits[lo+len-1 : lo]` (00 R10). -/
def fieldOf (bits : Word) (lo len : Nat) : BitVec len := bits.extractLsb' lo len

/-- The operands of a word of row `op`, by the format tables 30 R111 to R115; the word is refused where a zero bit of the
format is 1 (30 R120) or a field value is reserved (30 R118). -/
def decodeOperands (op : Op) (bits : Word) : Except Reject Instr :=
  let r : RegNum := fieldOf bits 22 4
  let rs1 : RegNum := fieldOf bits 18 4
  let rs2 : RegNum := fieldOf bits 14 4
  let fn0 : Bool := bits.getLsbD 0
  let fn2 : Bool := bits.getLsbD 2
  let fn10 : BitVec 2 := fieldOf bits 0 2
  let imm : BitVec 16 := fieldOf bits 0 16
  let off : Offset := fieldOf bits 0 12
  let idx : Index := fieldOf bits 0 8
  let c : Bool := bits.getLsbD 8
  let checked (zero : Bool) (i : Instr) : Except Reject Instr := if zero then .ok i else .error .reservedBits
  match op with
  | .nop => checked (fieldOf bits 0 26 == 0) .nop
  | .li => checked (fieldOf bits 16 6 == 0) (.li r imm)
  | .lih => checked (fieldOf bits 16 6 == 0) (.lih r imm)
  | .ldr => checked (fieldOf bits 12 10 == 0) (.ldr r off)
  | .str => checked (fieldOf bits 12 10 == 0) (.str r off)
  | .sclmode => checked (fieldOf bits 0 14 == 0) (.sclmode r rs1 rs2)
  | .prescl => checked (fieldOf bits 1 13 == 0) (.prescl r rs1 rs2 fn0)
  | .sclfac =>
    if fieldOf bits 3 11 != 0 then .error .reservedBits
    else if fn10 == 3#2 then .error .reservedMode
    else .ok (.sclfac r rs1 rs2 fn10 fn2)
  | .sclauto => checked (fieldOf bits 3 11 == 0 && fn10 == 0) (.sclauto r rs1 rs2 fn2)
  | .chrdim =>
    if fieldOf bits 2 16 != 0 then .error .reservedBits
    else if fn10 == 3#2 then .error .reservedShift
    else .ok (.chrdim r rs1 fn10)
  | .windis => checked (fieldOf bits 8 18 == 0) (.windis idx)
  | .assign => checked (fieldOf bits 8 18 == 0) (.assign idx)
  | .pmuxwait => checked (fieldOf bits 0 26 == 0) .pmuxwait
  | .derive => checked (fieldOf bits 0 26 == 0) .derive
  | .blend => checked (fieldOf bits 8 18 == 0) (.blend idx)
  | .clublend => checked (fieldOf bits 8 18 == 0) (.clublend idx)
  | .pendbits => checked (fieldOf bits 8 14 == 0) (.pendbits r idx)
  | .cfgdone => checked (fieldOf bits 8 14 == 0) (.cfgdone r idx)
  | .fswait => checked (fieldOf bits 9 17 == 0) (.fswait c idx)
  | .standby => checked (fieldOf bits 8 18 == 0) (.standby idx)
  | .enable => checked (fieldOf bits 8 18 == 0) (.enable idx)

/-- Decoding of a command word, a function of the word alone (30 R119). -/
def decode (bits : Word) : Except Reject Instr :=
  match Op.ofCode (fieldOf bits 26 6) with
  | none => .error .unknownOpcode
  | some op => decodeOperands op bits

/-- The word that four byte lanes carry, the byte at the lowest offset in bits 7:0 (20 R86). -/
def wordOfLanes (b0 b1 b2 b3 : Byte) : Word := b3 ++ b2 ++ b1 ++ b0

/-- The four byte lanes of a word, lowest offset first (20 R86). -/
def lanesOfWord (v : Word) : List Byte :=
  [v.extractLsb' 0 8, v.extractLsb' 8 8, v.extractLsb' 16 8, v.extractLsb' 24 8]

/-- The command that the first four byte lanes carry, with the bytes after it. -/
def decodeBytes : List Byte → Except Reject (Instr × List Byte)
  | b0 :: b1 :: b2 :: b3 :: rest => (decode (wordOfLanes b0 b1 b2 b3)).map fun i => (i, rest)
  | _ => .error .truncated

/-- The instruction read from a table word: its bits above `nbits` are 0, and the word is laid out in its byte lanes. -/
def decodeTableWord (nbits w : Nat) : Option Instr :=
  match decodeBytes (lanesOfWord (BitVec.ofNat 32 (w % 2 ^ nbits))) with
  | .ok (i, _) => some i
  | .error _ => none

/-- The row of 30 R117 that an instruction belongs to. -/
def Instr.op : Instr → Op
  | .nop => .nop
  | .li _ _ => .li
  | .lih _ _ => .lih
  | .ldr _ _ => .ldr
  | .str _ _ => .str
  | .sclmode _ _ _ => .sclmode
  | .prescl _ _ _ _ => .prescl
  | .sclfac _ _ _ _ _ => .sclfac
  | .sclauto _ _ _ _ => .sclauto
  | .chrdim _ _ _ => .chrdim
  | .windis _ => .windis
  | .assign _ => .assign
  | .pmuxwait => .pmuxwait
  | .derive => .derive
  | .blend _ => .blend
  | .clublend _ => .clublend
  | .pendbits _ _ => .pendbits
  | .cfgdone _ _ => .cfgdone
  | .fswait _ _ => .fswait
  | .standby _ => .standby
  | .enable _ => .enable

/-! The encoder, from the same format tables. -/

/-- Format R, three registers and `fn` (30 R111). -/
def formatR (op : Op) (rd rs1 rs2 : RegNum) (fn : BitVec 3) : Word :=
  op.code ++ rd ++ rs1 ++ rs2 ++ 0#11 ++ fn

/-- Format I, one register and a 16-bit immediate (30 R112). -/
def formatI (op : Op) (rd : RegNum) (imm : BitVec 16) : Word := op.code ++ rd ++ 0#6 ++ imm

/-- Format M, one register and a register-file offset (30 R113). -/
def formatM (op : Op) (r : RegNum) (off : Offset) : Word := op.code ++ r ++ 0#10 ++ off

/-- Format X, one register, a flag and an index (30 R114). -/
def formatX (op : Op) (r : RegNum) (c : Bool) (idx : Index) : Word :=
  op.code ++ r ++ 0#13 ++ BitVec.ofBool c ++ idx

/-- Format Z, no operand (30 R115). -/
def formatZ (op : Op) : Word := op.code ++ 0#26

/-- The command word of an instruction (30 R117). -/
def encode : Instr → Word
  | .nop => formatZ .nop
  | .li rd imm => formatI .li rd imm
  | .lih rd imm => formatI .lih rd imm
  | .ldr rd off => formatM .ldr rd off
  | .str rs off => formatM .str rs off
  | .sclmode rd rs1 rs2 => formatR .sclmode rd rs1 rs2 0
  | .prescl rd rs1 rs2 avg => formatR .prescl rd rs1 rs2 (0#2 ++ BitVec.ofBool avg)
  | .sclfac rd rs1 rs2 mode bil => formatR .sclfac rd rs1 rs2 (BitVec.ofBool bil ++ mode)
  | .sclauto rd rs1 rs2 bil => formatR .sclauto rd rs1 rs2 (BitVec.ofBool bil ++ 0#2)
  | .chrdim rd rs1 sub => formatR .chrdim rd rs1 0 (0#1 ++ sub)
  | .windis w => formatX .windis 0 false w
  | .assign p => formatX .assign 0 false p
  | .pmuxwait => formatZ .pmuxwait
  | .derive => formatZ .derive
  | .blend p => formatX .blend 0 false p
  | .clublend w => formatX .clublend 0 false w
  | .pendbits rd p => formatX .pendbits rd false p
  | .cfgdone rs p => formatX .cfgdone rs false p
  | .fswait c p => formatX .fswait 0 c p
  | .standby p => formatX .standby 0 false p
  | .enable p => formatX .enable 0 false p

end Sys2Proof
end

