-- ==== Sys2Proof/Config.lean ====
section
/-! DEFINITION. What an implementation fixes: the `HardwareProfile` of 00_scope.md R7 and R8, the constraints of R9, the
default profile of the test vectors, and the bound of the correction loop. The spec leaves no value undefined, so there is
no free value here. -/

namespace Sys2Proof

/-- The class of a layer-feeding window (00 R8 `WINCLASS`). -/
inductive WinClass where
  | cluster
  | esmart
  | smart
deriving DecidableEq, Repr, Inhabited

/-- The parameters of 00 R8. They never change after reset (R7). -/
structure Profile where
  /-- number of video ports -/
  nport : Nat
  /-- number of layer-feeding windows -/
  nwin : Nat
  /-- number of layer slots -/
  nlayer : Nat
  /-- the hardware's total mixer count -/
  nmixer : Nat
  /-- `WINCLASS[w]`, read for `w` below `nwin` -/
  winClass : Vector WinClass 8
  /-- `SELID[w]`, read for `w` below `nwin` -/
  selId : Vector (BitVec 4) 8
  /-- one pending latch shared by all ports (the older generation) -/
  sharedLatch : Bool
  /-- the generation has gt2 and gt4 pre-scale decimation -/
  prescaleCap : Bool
  /-- the generation that uses averaging instead of decimation -/
  avgCap : Bool
  /-- luma and chroma share one scaler -/
  sharedScaler : Bool
  /-- `T_POLL`, nominal bound of every wait in milliseconds; no rule reads it (93 row 13) -/
  tPollMs : Nat
deriving DecidableEq, Repr, Inhabited

/-- The ranges of 00 R8 and the constraints of 00 R9. A profile that breaks one is outside the spec. -/
abbrev Profile.WellFormed (c : Profile) : Prop :=
  (1 ≤ c.nport ∧ c.nport ≤ 4) ∧ (1 ≤ c.nwin ∧ c.nwin ≤ 8) ∧ c.nlayer = c.nwin ∧ c.nmixer = c.nwin ∧
  (∀ v < c.nwin, ∀ w < c.nwin, c.selId[v]? = c.selId[w]? → v = w) ∧
  (c.sharedLatch = true → c.nport ≤ 3) ∧
  (c.avgCap = true → c.prescaleCap = true)

/-- The default column of 00 R8. -/
def Profile.standard : Profile where
  nport := 3
  nwin := 6
  nlayer := 6
  nmixer := 6
  winClass := #v[.cluster, .cluster, .esmart, .esmart, .smart, .smart, .smart, .smart]
  selId := #v[0, 1, 2, 3, 4, 5, 6, 7]
  sharedLatch := true
  prescaleCap := true
  avgCap := false
  sharedScaler := false
  tPollMs := 50

/-- `CAL_ITER_MAX`, the bound of the correction loop (00 R8, 41 R182). -/
def calIterMax : Nat := 100

end Sys2Proof
end

