-- ==== Sys2Proof/Machine/State.lean ====
section
/-! DEFINITION. The state of the block as plain data: every register of 10_state.md, the wait state of R62, and four fields
of the model's own (`profile`, `hostOps`, `schedule`, `readData`; log entries 1, 2, 3 and 5). Every register has one home;
the registers that only show others (`STATUS`, `ID`, `HWCFG`, `CMD`) are views, in Machine/Registers.lean. -/

namespace Sys2Proof.Machine

/-- The outcome flags of the scaling unit, register `FLAGS` (10 R23). -/
structure Flags where
  gt2 : Bool
  gt4 : Bool
  avg2 : Bool
  avg4 : Bool
  cal : Bool
deriving DecidableEq, Repr, Inhabited

/-- The registers of one video port (10 R35 to R40). -/
structure Port where
  /-- `VP_CTRL.STBY` -/
  stby : Bool
  /-- `VP_CTRL.RUN` -/
  run : Bool
  /-- `VP_CTRL.DSPHOLD` -/
  dspHold : Bool
  /-- `VP_CTRL.LSEL_CHG` -/
  lselChg : Bool
  /-- `VP_CTRL.RANGE_CHG` -/
  rangeChg : Bool
  /-- `VP_TIMING.HTOTAL` -/
  htotal : BitVec 16
  /-- `VP_TIMING.VTOTAL` -/
  vtotal : BitVec 16
  /-- `VP_PCLK`, kHz -/
  pclk : Word
  /-- `VP_VCNT`, the current scanline count -/
  vcnt : BitVec 16
  /-- `VP_WINMASK`, bit `w` for window `w` -/
  winMask : BitVec 8
  /-- `VP_LAYERS.NRLAYERS` -/
  nrLayers : BitVec 4
  /-- `VP_LAYERS.WCNT` -/
  wcnt : BitVec 4
  /-- `VP_LAYERS.START` -/
  start : BitVec 4
deriving DecidableEq, Repr, Inhabited

/-- One set of four blend-control words (43 R241), each in the layout of 10 R55. -/
structure BlendWords where
  srcColor : Word
  dstColor : Word
  srcAlpha : Word
  dstAlpha : Word
deriving DecidableEq, Repr, Inhabited

/-- The `AlphaConfig` record, in the order of 43 R240. -/
structure AlphaConfig where
  srcPremulti : Bool
  dstPremulti : Bool
  srcPixEn : Bool
  dstPixEn : Bool
  srcGlb : BitVec 8
  dstGlb : BitVec 8
deriving DecidableEq, Repr, Inhabited

/-- The sub window of a cluster, register `WIN_SUB` (10 R45). -/
structure SubWindow where
  en : Bool
  below : Bool
  pixAlpha : Bool
  premulti : Bool
  glbAlpha : BitVec 8
deriving DecidableEq, Repr, Inhabited

/-- One copy of a window's scaling registers (10 R46, R47): staged or active. -/
structure ScalerRegs where
  ctrl : Word
  yrgbX : Word
  yrgbY : Word
  cbcrX : Word
  cbcrY : Word
deriving DecidableEq, Repr, Inhabited

/-- The registers of one window (10 R43 to R48) and, for a cluster, of its inner stage (R54). -/
structure Window where
  /-- `WIN_CTRL.EN` -/
  en : Bool
  /-- `WIN_CTRL.VPMASK` -/
  vpMask : BitVec 4
  /-- `WIN_CTRL.ZPOS` -/
  zpos : BitVec 8
  /-- `WIN_ALPHA.GLB_ALPHA` -/
  glbAlpha : BitVec 8
  /-- `WIN_ALPHA.PIX_ALPHA` -/
  pixAlpha : Bool
  /-- `WIN_ALPHA.PREMULTI` -/
  premulti : Bool
  /-- `WIN_SUB` -/
  sub : SubWindow
  /-- `WIN_SCL_*`, staged -/
  scl : ScalerRegs
  /-- `WIN_SCL_*_ACT` -/
  sclAct : ScalerRegs
  /-- `CLU_*`, staged -/
  clu : BlendWords
  /-- `CLU_*_ACT` -/
  cluAct : BlendWords
deriving DecidableEq, Repr, Inhabited

/-- One mixer slot: its field of `MIX_OWNER` (10 R34) and its words, staged and active (R52, R53). -/
structure MixSlot where
  /-- `MIX_OWNER[4*m+3]` -/
  valid : Bool
  /-- `MIX_OWNER[4*m+1 : 4*m]` -/
  owner : BitVec 2
  /-- `MIX_*[m]`, staged -/
  words : BlendWords
  /-- `MIX_*_ACT[m]` -/
  act : BlendWords
deriving DecidableEq, Repr, Inhabited

/-- The kinds of a wait (10 R62). -/
inductive WaitKind where
  /-- waiting for a pending bit to clear -/
  | done
  /-- waiting for the active port-mux to equal the staged one -/
  | pmux
  /-- waiting for dsp-hold-valid -/
  | dspHold
deriving DecidableEq, Repr, Inhabited

/-- The rest of the command that entered a wait (10 R62 `resume`): which command it is, and its fields. -/
inductive Resume where
  /-- PENDBITS rd, p: the fresh read after the wait (44 R290) -/
  | pendbits (rd : RegNum) (p : Nat)
  /-- PMUXWAIT (42 R220) -/
  | pmuxwait
  /-- FSWAIT p or FSWAIT.C p (44 R305) -/
  | fswait (c : Bool) (p : Nat)
  /-- STANDBY p (44 R310) -/
  | standby (p : Nat)
deriving DecidableEq, Repr, Inhabited

/-- The wait state (10 R62); `port` is 0 for kind `pmux`. -/
inductive WaitState where
  | idle
  | waiting (kind : WaitKind) (port : Nat) (rest : Resume)
deriving DecidableEq, Repr, Inhabited

/-- One access of the host (60 R356). A bus write of a word to `CMD` is the step `Command` (10 R26). -/
inductive HostOp where
  | busRead (addr : Offset)
  | busWrite (addr : Offset) (v : Word)
deriving DecidableEq, Repr, Inhabited

/-- Who may take the next step (60 R350, R356), and reset, which comes from outside (70 R380). -/
inductive Agent where
  | host
  | lineTick (p : Nat)
  | dspHold (p : Nat)
  | timeout
  | resume
  | reset
deriving DecidableEq, Repr, Inhabited

/-- The state of the block. The banks have the largest size a profile allows; a port, window or slot index at or above the
profile's count does not exist in the hardware (log entry 7). -/
structure State where
  /-- the parameters (00 R8), constant (log entry 1) -/
  profile : Profile
  /-- operand registers `x0` to `x15` (10 R20) -/
  x : Vector Word 16
  /-- `SEQ` (10 R22) -/
  seq : Word
  /-- `FLAGS` (10 R23) -/
  flags : Flags
  /-- `FAULT` (10 R28) -/
  fault : BitVec 6
  /-- `FAULTINFO` (10 R29) -/
  faultInfo : Word
  /-- `LOG` (10 R30) -/
  log : BitVec 3
  /-- `CFG_DONE.PEND` (10 R31) -/
  pend : BitVec 4
  /-- `CFG_DONE.GLBEN` (10 R31) -/
  glbEn : Bool
  /-- `LAYER_SEL`, the code of layer `L` at index `L` (10 R32) -/
  layerSel : Vector (BitVec 4) 8
  /-- `LAYER_SEL_ACT` (10 R32) -/
  layerSelAct : Vector (BitVec 4) 8
  /-- `PORT_MUX`, the code of port `p` at index `p` (10 R33) -/
  portMux : Vector (BitVec 4) 4
  /-- `PORT_MUX_ACT` (10 R33) -/
  portMuxAct : Vector (BitVec 4) 4
  /-- `ACFG` (10 R50) -/
  acfg : AlphaConfig
  /-- `BW_*` (10 R51) -/
  bw : BlendWords
  /-- the ports (10 R35 to R40) -/
  ports : Vector Port 4
  /-- the windows (10 R43 to R48, R54) -/
  wins : Vector Window 8
  /-- the mixer slots (10 R34, R52, R53) -/
  slots : Vector MixSlot 8
  /-- the wait state (10 R62) -/
  wait : WaitState
  /-- the host's accesses not yet taken, in program order (20 R94, log entry 2) -/
  hostOps : List HostOp
  /-- whose turn it is, in order (60 R354, log entry 3) -/
  schedule : List Agent
  /-- the value the last bus read returned to the host (20 R84, log entry 5) -/
  readData : Option Word
deriving DecidableEq, Repr

/-- Reasons for which the machine stops with a fault: there are none. "A fault never stops the block" (60 R341); every
fault of the spec is a bit of `FAULT` in a next state. Safe: nothing is stopped that the hardware would run. -/
inductive Fault where
deriving DecidableEq, Repr

/-- Reasons for which the model refuses. -/
inductive Refusal where
  /-- Raised by an arm of `exec` whose instruction has no meaning yet (none is left). Safe: nothing is claimed of it. -/
  | notModelled (mnemonic : String)
  /-- Raised by `step` when the profile breaks 00 R9: "A profile that breaks one is outside this spec and the model refuses
  it". Safe: no such hardware is described. -/
  | badProfile
deriving DecidableEq, Repr

/-- What a command, a bus access or an event answers. -/
abbrev Result := Host.Outcome State Fault Refusal

def BlendWords.zero : BlendWords := ⟨0, 0, 0, 0⟩

def ScalerRegs.zero : ScalerRegs := ⟨0, 0, 0, 0, 0⟩

/-- A port after reset: in standby and stopped (10 R64). -/
def Port.reset : Port where
  stby := true
  run := false
  dspHold := false
  lselChg := false
  rangeChg := false
  htotal := 0
  vtotal := 0
  pclk := 0
  vcnt := 0
  winMask := 0
  nrLayers := 0
  wcnt := 0
  start := 0

/-- A window after reset: disabled, opaque, nothing staged (10 R64). -/
def Window.reset : Window where
  en := false
  vpMask := 0
  zpos := 0
  glbAlpha := 0xFF
  pixAlpha := false
  premulti := false
  sub := ⟨false, false, false, false, 0xFF⟩
  scl := .zero
  sclAct := .zero
  clu := .zero
  cluAct := .zero

/-- A mixer slot after reset: owned by nobody, all words 0 (10 R64). -/
def MixSlot.reset : MixSlot := ⟨false, 0, .zero, .zero⟩

/-- Layer `L` holds `SELID[L]`; the fields at and above `NLAYER` read 0 (10 R32). -/
def resetLayerSel (c : Profile) : Vector (BitVec 4) 8 :=
  c.selId.mapIdx fun l code => if l < c.nlayer then code else 0

/-- Every port holds 8; the fields at and above `NPORT` read 0 (10 R33). -/
def resetPortMux (c : Profile) : Vector (BitVec 4) 4 :=
  #v[0, 1, 2, 3].map fun p => if p < c.nport then 8#4 else 0

/-- The block after reset with the parameters `c` (10 R64); the host has issued nothing. -/
def State.resetOf (c : Profile) : State where
  profile := c
  x := Vector.replicate 16 0
  seq := 0
  flags := ⟨false, false, false, false, false⟩
  fault := 0
  faultInfo := 0
  log := 0
  pend := 0
  glbEn := false
  layerSel := resetLayerSel c
  layerSelAct := resetLayerSel c
  portMux := resetPortMux c
  portMuxAct := resetPortMux c
  acfg := ⟨false, false, false, false, 0xFF, 0xFF⟩
  bw := .zero
  ports := Vector.replicate 4 Port.reset
  wins := Vector.replicate 8 Window.reset
  slots := Vector.replicate 8 MixSlot.reset
  wait := .idle
  hostOps := []
  schedule := []
  readData := none

/-- The machine right after reset, with the default profile of 00 R8. -/
def State.reset : State := State.resetOf Profile.standard

end Sys2Proof.Machine
end

