-- ==== Sys2Proof/Machine/Bits.lean ====
section
/-! DEFINITION. Reading and writing one entry of a bank (ports, windows, slots, 4-bit codes), and the bit primitives of
00_scope.md R12. -/

namespace Sys2Proof.Machine

/-- Entry `i` of a bank; an index past the bank's end has no register behind it. -/
def getAt {α : Type} [Inhabited α] {n : Nat} (v : Vector α n) (i : Nat) : α :=
  if h : i < n then v[i] else default

/-- The bank with entry `i` replaced; nothing changes for an index past its end. -/
def setAt {α : Type} {n : Nat} (v : Vector α n) (i : Nat) (a : α) : Vector α n :=
  if h : i < n then v.set i a h else v

/-- The bank with entry `i` updated. -/
def modAt {α : Type} [Inhabited α] {n : Nat} (v : Vector α n) (i : Nat) (f : α → α) : Vector α n :=
  setAt v i (f (getAt v i))

/-- `popcount(v)`: the number of one bits (00 R12). -/
def popcount {n : Nat} (v : BitVec n) : Nat := ((List.range n).filter fun i => v.getLsbD i).length

/-- `lowest(v)`: the index of the lowest one bit, used for `v != 0` only (00 R12). -/
def lowest {n : Nat} (v : BitVec n) : Nat := ((List.range n).find? fun i => v.getLsbD i).getD 0

/-- The word with only bit `i` set, `1 << i`. -/
def bit (n i : Nat) : BitVec n := 1#n <<< i

/-- `m = 1 << p`: the mask names port `p` and no other (42 R201). -/
def namesPort (m : BitVec 4) (p : Nat) : Bool := m.toNat == 2 ^ p

/-- The word whose field `4*i+3 : 4*i` is `f i` for `i` below `count`, and 0 above (10 R32, R33, R34). -/
def packNibbles (count : Nat) (f : Nat → BitVec 4) : Word :=
  (List.range count).foldl (fun acc i => acc ||| ((f i).setWidth 32 <<< (4 * i))) 0

/-- A flag as one bit. -/
abbrev flagBit (b : Bool) : BitVec 1 := BitVec.ofBool b

end Sys2Proof.Machine
end

