-- ==== Sys2Proof/Machine/Registers.lean ====
section
/-! DEFINITION. The register file: the address map of 20_memory.md R81, the access rights, what each register reads as
(10_state.md) and what a write to it stores (20 R85). `memRead` and `memWrite` are the primitives `MemRead` and `MemWrite`
of 20 R84 and R85; both the bus and the commands LDR and STR use them. -/

namespace Sys2Proof.Machine

/-- The four words of a stage, in the order of their offsets (10 R51 to R54). -/
inductive BlendReg where
  | srcColor
  | dstColor
  | srcAlpha
  | dstAlpha
deriving DecidableEq, Repr

/-- The scaling registers of one copy, in the order of their offsets (10 R46 to R48). -/
inductive ScalerReg where
  | ctrl
  | yrgbX
  | yrgbY
  | cbcrX
  | cbcrY
deriving DecidableEq, Repr

/-- The registers of a port group (10 R35 to R40). -/
inductive PortReg where
  | ctrl
  | timing
  | pclk
  | vcnt
  | winMask
  | layers
deriving DecidableEq, Repr

/-- The registers of a window group (10 R43 to R48). -/
inductive WindowReg where
  | ctrl
  | alpha
  | sub
  | scl (r : ScalerReg)
  | sclAct (r : ScalerReg)
deriving DecidableEq, Repr

/-- Every register of the map (20 R81); the flag of `mix` and `clu` is 1 for the active copy. -/
inductive RegName where
  | id | hwcfg | cmd | status | flags | fault | faultInfo | log | seq | cfgDone
  | layerSel | layerSelAct | portMux | portMuxAct | mixOwner
  | x (i : RegNum)
  | acfg
  | bw (r : BlendReg)
  | port (p : Nat) (r : PortReg)
  | window (w : Nat) (r : WindowReg)
  | mix (m : Nat) (active : Bool) (r : BlendReg)
  | clu (w : Nat) (active : Bool) (r : BlendReg)
deriving DecidableEq, Repr

/-- Access rights (20 R81): read only, read and write, write only, write 1 to clear. -/
inductive Access where
  | ro
  | rw
  | wo
  | w1c
deriving DecidableEq, Repr

/-- The column "access" of 20 R81. -/
def accessOf : RegName → Access
  | .cmd => .wo
  | .log => .w1c
  | .x _ => .rw
  | .acfg => .rw
  | .port _ .timing => .rw
  | .port _ .pclk => .rw
  | .window _ .ctrl => .rw
  | .window _ .alpha => .rw
  | .window _ .sub => .rw
  | .window _ (.scl _) => .rw
  | _ => .ro

/-- The class of window `w` (00 R8 `WINCLASS`). -/
def classOf (c : Profile) (w : Nat) : WinClass := getAt c.winClass w

/-- The selector code of window `w` (00 R8 `SELID`). -/
def selCode (c : Profile) (w : Nat) : BitVec 4 := getAt c.selId w

/-- The code of a class in `WIN_CTRL.CLASS` (10 R43). -/
def classCode : WinClass → BitVec 2
  | .cluster => 0
  | .esmart => 1
  | .smart => 2

/-- The word offsets `0x000` to `0x03C` (20 R81), by word index. -/
def globalReg : Nat → Option RegName
  | 0 => some .id
  | 1 => some .hwcfg
  | 2 => some .cmd
  | 3 => some .status
  | 4 => some .flags
  | 5 => some .fault
  | 6 => some .faultInfo
  | 7 => some .log
  | 8 => some .seq
  | 9 => some .cfgDone
  | 10 => some .layerSel
  | 11 => some .layerSelAct
  | 12 => some .portMux
  | 13 => some .portMuxAct
  | 14 => some .mixOwner
  | _ => none

/-- The four words of a stage by word index. -/
def blendReg : Nat → Option BlendReg
  | 0 => some .srcColor
  | 1 => some .dstColor
  | 2 => some .srcAlpha
  | 3 => some .dstAlpha
  | _ => none

/-- The scaling registers of one copy by word index. -/
def scalerReg : Nat → Option ScalerReg
  | 0 => some .ctrl
  | 1 => some .yrgbX
  | 2 => some .yrgbY
  | 3 => some .cbcrX
  | 4 => some .cbcrY
  | _ => none

/-- The port group by word index; `+0x18` and `+0x1C` are unmapped (20 R81). -/
def portReg : Nat → Option PortReg
  | 0 => some .ctrl
  | 1 => some .timing
  | 2 => some .pclk
  | 3 => some .vcnt
  | 4 => some .winMask
  | 5 => some .layers
  | _ => none

/-- The window group by word index; `+0x0C`, `+0x38` and `+0x3C` are unmapped (10 R48, 20 R81). -/
def windowReg (i : Nat) : Option WindowReg :=
  if i < 4 then
    match i with
    | 0 => some .ctrl
    | 1 => some .alpha
    | 2 => some .sub
    | _ => none
  else if i < 9 then (scalerReg (i - 4)).map .scl
  else (scalerReg (i - 9)).map .sclAct

/-- A group of eight words: four staged, then the four active (10 R52 to R54). -/
def stageReg (mk : Bool → BlendReg → RegName) (i : Nat) : Option RegName :=
  if i < 4 then (blendReg i).map (mk false) else (blendReg (i - 4)).map (mk true)

/-- The register at a byte offset, by the map of 20 R81; `none` for a misaligned or unmapped offset. -/
def regAt (c : Profile) (off : Offset) : Option RegName :=
  let a := off.toNat
  if a % 4 ≠ 0 then none
  else if a < 0x040 then globalReg (a / 4)
  else if a < 0x080 then some (.x (BitVec.ofNat 4 ((a - 0x040) / 4)))
  else if a < 0x100 then
    if a = 0x080 then some .acfg else (blendReg ((a - 0x084) / 4)).map .bw
  else if a < 0x200 then
    let p := (a - 0x100) / 0x20
    if p < c.nport then (portReg ((a - 0x100) % 0x20 / 4)).map (.port p) else none
  else if a < 0x400 then
    let w := (a - 0x200) / 0x40
    if w < c.nwin then (windowReg ((a - 0x200) % 0x40 / 4)).map (.window w) else none
  else if a < 0x600 then
    let m := (a - 0x400) / 0x20
    if m < c.nmixer then stageReg (.mix m) ((a - 0x400) % 0x20 / 4) else none
  else if a < 0x800 then
    let w := (a - 0x600) / 0x20
    if w < c.nwin ∧ classOf c w = .cluster then stageReg (.clu w) ((a - 0x600) % 0x20 / 4) else none
  else none

/-! ## What a register reads as -/

/-- `HWCFG` (10 R25). -/
def hwcfgWord (c : Profile) : Word :=
  0#20 ++ flagBit c.sharedScaler ++ flagBit c.avgCap ++ flagBit c.prescaleCap ++ flagBit c.sharedLatch ++
    BitVec.ofNat 4 c.nwin ++ BitVec.ofNat 4 c.nport

/-- `STATUS.WAITKIND` (10 R27). -/
def waitKindCode : WaitKind → BitVec 2
  | .done => 1
  | .pmux => 2
  | .dspHold => 3

/-- Bits 4:0 of `STATUS`: `WAITPORT`, `WAITKIND`, `BUSY` (10 R27). -/
def waitBits : WaitState → BitVec 5
  | .idle => 0
  | .waiting kind port _ => (if kind = .pmux then 0#2 else BitVec.ofNat 2 port) ++ waitKindCode kind ++ 1#1

/-- `STATUS` (10 R27), a view of the wait state, `FAULT` and `LOG`. -/
def statusWord (s : State) : Word :=
  0#25 ++ flagBit (s.log != 0) ++ flagBit (s.fault != 0) ++ waitBits s.wait

/-- `FLAGS` (10 R23). -/
def flagsWord (f : Flags) : Word :=
  0#27 ++ flagBit f.cal ++ flagBit f.avg4 ++ flagBit f.avg2 ++ flagBit f.gt4 ++ flagBit f.gt2

/-- `CFG_DONE` (10 R31). -/
def cfgDoneWord (s : State) : Word := 0#16 ++ flagBit s.glbEn ++ 0#11 ++ s.pend

/-- The field of `MIX_OWNER` of one slot (10 R34). -/
def ownerNibble (m : MixSlot) : BitVec 4 := flagBit m.valid ++ 0#1 ++ m.owner

/-- `ACFG` (10 R50). -/
def acfgWord (a : AlphaConfig) : Word :=
  0#8 ++ a.dstGlb ++ a.srcGlb ++ 0#4 ++ flagBit a.dstPixEn ++ flagBit a.srcPixEn ++ flagBit a.dstPremulti ++
    flagBit a.srcPremulti

/-- `VP_CTRL` (10 R35). -/
def portCtrlWord (p : Port) : Word :=
  0#27 ++ flagBit p.rangeChg ++ flagBit p.lselChg ++ flagBit p.dspHold ++ flagBit p.run ++ flagBit p.stby

/-- A port's registers (10 R35 to R40). -/
def readPort (p : Port) : PortReg → Word
  | .ctrl => portCtrlWord p
  | .timing => p.vtotal ++ p.htotal
  | .pclk => p.pclk
  | .vcnt => 0#16 ++ p.vcnt
  | .winMask => 0#24 ++ p.winMask
  | .layers => 0#20 ++ p.start ++ p.wcnt ++ p.nrLayers

/-- One word of a stage. -/
def readBlend (b : BlendWords) : BlendReg → Word
  | .srcColor => b.srcColor
  | .dstColor => b.dstColor
  | .srcAlpha => b.srcAlpha
  | .dstAlpha => b.dstAlpha

/-- One scaling register of a copy. -/
def readScaler (r : ScalerRegs) : ScalerReg → Word
  | .ctrl => r.ctrl
  | .yrgbX => r.yrgbX
  | .yrgbY => r.yrgbY
  | .cbcrX => r.cbcrX
  | .cbcrY => r.cbcrY

/-- The implemented bits of a staged scaling register: 13:0 of `WIN_SCL_CTRL` (10 R46), all of a factor (R47); with a
shared scaler the chroma fields and the chroma factors are not there, they read 0 and ignore writes (R49). -/
def scalerMask (c : Profile) : ScalerReg → Word
  | .ctrl => if c.sharedScaler then 0x000030FF else 0x00003FFF
  | .yrgbX => 0xFFFFFFFF
  | .yrgbY => 0xFFFFFFFF
  | .cbcrX => if c.sharedScaler then 0 else 0xFFFFFFFF
  | .cbcrY => if c.sharedScaler then 0 else 0xFFFFFFFF

/-- `WIN_CTRL` (10 R43); `CLASS` is the profile's. -/
def winCtrlWord (cls : WinClass) (w : Window) : Word :=
  0#14 ++ classCode cls ++ w.zpos ++ w.vpMask ++ 0#3 ++ flagBit w.en

/-- `WIN_ALPHA` (10 R44). -/
def winAlphaWord (w : Window) : Word :=
  0#22 ++ flagBit w.premulti ++ flagBit w.pixAlpha ++ w.glbAlpha

/-- `WIN_SUB` of a cluster (10 R45). -/
def winSubWord (b : SubWindow) : Word :=
  0#8 ++ b.glbAlpha ++ 0#6 ++ flagBit b.premulti ++ flagBit b.pixAlpha ++ 0#6 ++ flagBit b.below ++ flagBit b.en

/-- The registers of window `w` (10 R43 to R49); `WIN_SUB` of a window that is no cluster reads 0 (R45). -/
def readWindow (c : Profile) (w : Nat) (win : Window) : WindowReg → Word
  | .ctrl => winCtrlWord (classOf c w) win
  | .alpha => winAlphaWord win
  | .sub => if classOf c w = .cluster then winSubWord win.sub else 0
  | .scl r => readScaler win.scl r &&& scalerMask c r
  | .sclAct r => readScaler win.sclAct r

/-- What each register reads as (10_state.md); `CMD` reads 0 (R26). -/
def readReg (s : State) : RegName → Word
  | .id => 0x53464301
  | .hwcfg => hwcfgWord s.profile
  | .cmd => 0
  | .status => statusWord s
  | .flags => flagsWord s.flags
  | .fault => 0#26 ++ s.fault
  | .faultInfo => s.faultInfo
  | .log => 0#29 ++ s.log
  | .seq => s.seq
  | .cfgDone => cfgDoneWord s
  | .layerSel => packNibbles s.profile.nlayer (getAt s.layerSel)
  | .layerSelAct => packNibbles s.profile.nlayer (getAt s.layerSelAct)
  | .portMux => packNibbles s.profile.nport (getAt s.portMux)
  | .portMuxAct => packNibbles s.profile.nport (getAt s.portMuxAct)
  | .mixOwner => packNibbles s.profile.nmixer fun m => ownerNibble (getAt s.slots m)
  | .x i => getAt s.x i.toNat
  | .acfg => acfgWord s.acfg
  | .bw r => readBlend s.bw r
  | .port p r => readPort (getAt s.ports p) r
  | .window w r => readWindow s.profile w (getAt s.wins w) r
  | .mix m active r => readBlend (if active then (getAt s.slots m).act else (getAt s.slots m).words) r
  | .clu w active r => readBlend (if active then (getAt s.wins w).cluAct else (getAt s.wins w).clu) r

/-! ## What a write stores -/

/-- The record in `ACFG` after a write (10 R50); the other bits of the word are dropped (20 R89). -/
def acfgOfWord (v : Word) : AlphaConfig where
  srcPremulti := v.getLsbD 0
  dstPremulti := v.getLsbD 1
  srcPixEn := v.getLsbD 2
  dstPixEn := v.getLsbD 3
  srcGlb := v.extractLsb' 8 8
  dstGlb := v.extractLsb' 16 8

/-- The sub window after a write of `WIN_SUB` (10 R45). -/
def subOfWord (v : Word) : SubWindow where
  en := v.getLsbD 0
  below := v.getLsbD 1
  pixAlpha := v.getLsbD 8
  premulti := v.getLsbD 9
  glbAlpha := v.extractLsb' 16 8

/-- A copy with one scaling register replaced. -/
def setScaler (r : ScalerRegs) (name : ScalerReg) (v : Word) : ScalerRegs :=
  match name with
  | .ctrl => { r with ctrl := v }
  | .yrgbX => { r with yrgbX := v }
  | .yrgbY => { r with yrgbY := v }
  | .cbcrX => { r with cbcrX := v }
  | .cbcrY => { r with cbcrY := v }

/-- The writable bits take the bits of `v`, the others stay (20 R85). -/
def mergeBits (mask old v : Word) : Word := (v &&& mask) ||| (old &&& ~~~mask)

/-- A window after a write to one of its registers (10 R43 to R49); a write of `WIN_SUB` to a window that is no cluster is
ignored (R45). -/
def writeWindow (c : Profile) (w : Nat) (win : Window) (name : WindowReg) (v : Word) : Window :=
  match name with
  | .ctrl => { win with en := v.getLsbD 0, vpMask := v.extractLsb' 4 4, zpos := v.extractLsb' 8 8 }
  | .alpha => { win with glbAlpha := v.extractLsb' 0 8, pixAlpha := v.getLsbD 8, premulti := v.getLsbD 9 }
  | .sub => if classOf c w = .cluster then { win with sub := subOfWord v } else win
  | .scl r => { win with scl := setScaler win.scl r (mergeBits (scalerMask c r) (readScaler win.scl r) v) }
  | .sclAct _ => win

/-- A port after a write to one of its registers (10 R36, R37). -/
def writePort (p : Port) (name : PortReg) (v : Word) : Port :=
  match name with
  | .timing => { p with htotal := v.extractLsb' 0 16, vtotal := v.extractLsb' 16 16 }
  | .pclk => { p with pclk := v }
  | .ctrl => p
  | .vcnt => p
  | .winMask => p
  | .layers => p

/-- The state after a write to a writable register (20 R85); a write to `LOG` clears the bits written as 1 (10 R30). -/
def writeReg (s : State) (name : RegName) (v : Word) : State :=
  match name with
  | .x i => { s with x := setAt s.x i.toNat v }
  | .acfg => { s with acfg := acfgOfWord v }
  | .log => { s with log := s.log &&& ~~~(v.extractLsb' 0 3) }
  | .port p r => { s with ports := modAt s.ports p fun pt => writePort pt r v }
  | .window w r => { s with wins := modAt s.wins w fun win => writeWindow s.profile w win r v }
  | _ => s

/-! ## The same map read from the register's side -/

/-- Word index of a blend word in its group. -/
def blendIndex : BlendReg → Nat
  | .srcColor => 0
  | .dstColor => 1
  | .srcAlpha => 2
  | .dstAlpha => 3

/-- Word index of a scaling register in its copy. -/
def scalerIndex : ScalerReg → Nat
  | .ctrl => 0
  | .yrgbX => 1
  | .yrgbY => 2
  | .cbcrX => 3
  | .cbcrY => 4

/-- Offset of a register in its port group (10 R35 to R40). -/
def portOffset : PortReg → Nat
  | .ctrl => 0x00
  | .timing => 0x04
  | .pclk => 0x08
  | .vcnt => 0x0C
  | .winMask => 0x10
  | .layers => 0x14

/-- Offset of a register in its window group (10 R43 to R48). -/
def windowOffset : WindowReg → Nat
  | .ctrl => 0x00
  | .alpha => 0x04
  | .sub => 0x08
  | .scl r => 0x10 + 4 * scalerIndex r
  | .sclAct r => 0x24 + 4 * scalerIndex r

/-- Offset of a word in a group of four staged and four active words (10 R52 to R54). -/
def stageOffset (active : Bool) (r : BlendReg) : Nat := (if active then 0x10 else 0) + 4 * blendIndex r

/-- The column "offset" of 20 R81. -/
def offsetOf : RegName → Nat
  | .id => 0x000
  | .hwcfg => 0x004
  | .cmd => 0x008
  | .status => 0x00C
  | .flags => 0x010
  | .fault => 0x014
  | .faultInfo => 0x018
  | .log => 0x01C
  | .seq => 0x020
  | .cfgDone => 0x024
  | .layerSel => 0x028
  | .layerSelAct => 0x02C
  | .portMux => 0x030
  | .portMuxAct => 0x034
  | .mixOwner => 0x038
  | .x i => 0x040 + 4 * i.toNat
  | .acfg => 0x080
  | .bw r => 0x084 + 4 * blendIndex r
  | .port p r => 0x100 + 0x20 * p + portOffset r
  | .window w r => 0x200 + 0x40 * w + windowOffset r
  | .mix m active r => 0x400 + 0x20 * m + stageOffset active r
  | .clu w active r => 0x600 + 0x20 * w + stageOffset active r

/-- The register exists with these parameters: "a group whose index is outside its range is unmapped" (20 R81), and a
window of another class has no inner stage (10 R54). -/
def inMap (c : Profile) : RegName → Bool
  | .port p _ => decide (p < c.nport)
  | .window w _ => decide (w < c.nwin)
  | .mix m _ _ => decide (m < c.nmixer)
  | .clu w _ _ => decide (w < c.nwin ∧ classOf c w = .cluster)
  | _ => true

/-- The bits of a register that a write stores (10_state.md); 0 for a register that stores nothing. -/
def writableBits (c : Profile) : RegName → Word
  | .x _ => 0xFFFFFFFF
  | .acfg => 0x00FFFF0F
  | .port _ .timing => 0xFFFFFFFF
  | .port _ .pclk => 0xFFFFFFFF
  | .window _ .ctrl => 0x0000FFF1
  | .window _ .alpha => 0x000003FF
  | .window w .sub => if classOf c w = .cluster then 0x00FF0303 else 0
  | .window _ (.scl r) => scalerMask c r
  | _ => 0

/-! ## MemRead and MemWrite -/

/-- `MemRead(addr, 4)` (20 R84): the register's value, or `none` where the read raises `BADADDR` (misaligned, unmapped, or
the write-only `CMD`). -/
def memRead (s : State) (off : Offset) : Option Word :=
  match regAt s.profile off with
  | none => none
  | some name => if accessOf name = .wo then none else some (readReg s name)

/-- `MemWrite(addr, 4, v)` (20 R85): the state after the write, or `none` where the write raises `BADADDR` (misaligned,
unmapped, read-only, or `CMD`, which only the bus writes and not through this operation). -/
def memWrite (s : State) (off : Offset) (v : Word) : Option State :=
  match regAt s.profile off with
  | none => none
  | some name => if accessOf name = .rw ∨ accessOf name = .w1c then some (writeReg s name v) else none

/-- One byte lane of the register file, for a platform that carries words over byte lanes (20 R86). -/
def readLane (s : State) (off : Offset) : Option Byte :=
  (memRead s (off &&& 0xFFC)).map fun v => v.extractLsb' (8 * (off.toNat % 4)) 8

end Sys2Proof.Machine
end

