-- ==== Sys2Proof/Machine/Ops.lean ====
section
/-! DEFINITION. The named operations every command is written with: the operand registers, raising a fault (the block's only
"exception entry", 60_exceptions.md R341; there is no return from one, R346), entering a wait and finishing a waiting command
(10_state.md R62, 60 R353, R355). -/

namespace Sys2Proof.Machine

/-- Port `p`. -/
def State.port (s : State) (p : Nat) : Port := getAt s.ports p

/-- Window `w`. -/
def State.win (s : State) (w : Nat) : Window := getAt s.wins w

/-- Mixer slot `m`. -/
def State.slot (s : State) (m : Nat) : MixSlot := getAt s.slots m

/-- Port `p` updated. -/
def State.modPort (s : State) (p : Nat) (f : Port → Port) : State := { s with ports := modAt s.ports p f }

/-- Window `w` updated. -/
def State.modWin (s : State) (w : Nat) (f : Window → Window) : State := { s with wins := modAt s.wins w f }

/-- `x[i]` (00 R12). -/
def State.reg (s : State) (i : RegNum) : Word := getAt s.x i.toNat

/-- `x[i] <- v` (00 R12). -/
def State.setReg (s : State) (i : RegNum) (v : Word) : State := { s with x := setAt s.x i.toNat v }

/-! ## Faults -/

/-- The six faults (60 R342). -/
inductive HardFault where
  | illCmd
  | operand
  | badIndex
  | badAddr
  | badCfg
  | timing
deriving DecidableEq, Repr

/-- The fault's bit of `FAULT` (10 R28). -/
def HardFault.bitIndex : HardFault → Nat
  | .illCmd => 0
  | .operand => 1
  | .badIndex => 2
  | .badAddr => 3
  | .badCfg => 4
  | .timing => 5

/-- The fault's code in `FAULTINFO` (10 R28). -/
def HardFault.code : HardFault → BitVec 8
  | .illCmd => 1
  | .operand => 2
  | .badIndex => 3
  | .badAddr => 4
  | .badCfg => 5
  | .timing => 6

/-- What every fault does: its sticky bit is set, and `FAULTINFO` is filled if it is the first fault since reset (60 R341
(2) and (3), 10 R28, R29). -/
def State.recordFault (s : State) (f : HardFault) (info : Word) : State :=
  { s with
    fault := s.fault ||| bit 6 f.bitIndex
    faultInfo := if s.faultInfo = 0 then info else s.faultInfo }

/-- `raise f` in a command (60 R341): `FAULTINFO` gets the low 24 bits of `SEQ` and the code. The command has changed
nothing but `SEQ`, which keeps its increment; the block goes on with the next command. -/
def State.raise (s : State) (f : HardFault) : State :=
  s.recordFault f (s.seq.extractLsb' 0 24 ++ f.code)

/-- A fault of a bus access, always `BADADDR` (20 R88): no `SEQ` part (10 R29). -/
def State.raiseBus (s : State) : State := s.recordFault .badAddr (0#24 ++ HardFault.badAddr.code)

/-! ## Waits -/

/-- The condition that ends a wait (10 R62). -/
def waitCondition (s : State) (kind : WaitKind) (port : Nat) : Bool :=
  match kind with
  | .done => !s.pend.getLsbD port
  | .pmux => decide (s.portMuxAct = s.portMux)
  | .dspHold => (s.port port).dspHold

/-- The pending bits of the ports other than `p` (44 R290). -/
def otherPending (s : State) (p : Nat) : BitVec 4 := s.pend &&& ~~~(bit 4 p)

/-- The rest of a command after its wait; `byCondition` is false when the `Timeout` event ended the wait. PENDBITS reads
the pending bits afresh (44 R293); FSWAIT.C clears `LSEL_CHG` only on its condition (44 R305, R306); STANDBY clears
`DSPHOLD` only on its condition (44 R310, R311). -/
def State.finish (s : State) (byCondition : Bool) : Resume → State
  | .pendbits rd p => s.setReg rd ((otherPending s p).setWidth 32)
  | .pmuxwait => s
  | .fswait c p => if c && byCondition then s.modPort p fun pt => { pt with lselChg := false } else s
  | .standby p => if byCondition then s.modPort p fun pt => { pt with dspHold := false } else s

/-- `hold until <cond> kind <k> port <p>` followed by the rest of the command (00 R12): a command whose condition already
holds does not enter the wait (10 R62). -/
def State.hold (s : State) (kind : WaitKind) (port : Nat) (rest : Resume) : State :=
  if waitCondition s kind port then s.finish true rest else { s with wait := .waiting kind port rest }

/-- The bit of `LOG` of a wait's kind (60 R345). -/
def logBit : WaitKind → BitVec 3
  | .done => 1
  | .pmux => 2
  | .dspHold => 4

/-- `STATUS.BUSY` (10 R27). -/
def State.busy (s : State) : Bool :=
  match s.wait with
  | .idle => false
  | .waiting _ _ _ => true

end Sys2Proof.Machine
end

