-- ==== Sys2Proof/Machine/Operands.lean ====
section
/-! DEFINITION. The operand forms: indices and their range checks (30_encoding.md R116, R121), dimensions (41_scaling.md
R161), the coded fields of the scaling commands (R160, R192), the AlphaConfig record of `ACFG` (43_blend.md R240), and how a
command that checks its index is run. -/

namespace Sys2Proof.Machine

/-- ScaleMode (41 R160). -/
inductive ScaleMode where
  | none
  | up
  | down
deriving DecidableEq, Repr

/-- The code of a ScaleMode in two bits (41 R160). -/
def modeCode : ScaleMode → BitVec 2
  | .none => 0
  | .up => 1
  | .down => 2

/-- The ScaleMode a field names; the code 3 is reserved (41 R160). -/
def modeOfCode (code : BitVec 2) : Option ScaleMode :=
  if code = 0 then some .none else if code = 1 then some .up else if code = 2 then some .down else Option.none

/-- `None` when the dimensions are equal, `Up` when the source is smaller, `Down` when it is larger (41 R160, R162). -/
def selectMode (s d : Word) : ScaleMode :=
  if s = d then .none else if s.toNat < d.toNat then .up else .down

/-- A dimension is accepted only when `1 <= v <= 65535`, over the whole 32-bit register (41 R161). -/
def dimOk (v : Word) : Bool := decide (1 ≤ v.toNat ∧ v.toNat ≤ 65535)

/-- A port command runs for a port below `NPORT`; else `BADINDEX` (30 R121, 60 R342). -/
def State.withPort (s : State) (idx : Index) (run : Nat → State) : State :=
  if idx.toNat < s.profile.nport then run idx.toNat else s.raise .badIndex

/-- A window command runs for a window below `NWIN`; else `BADINDEX` (30 R121, 60 R342). -/
def State.withWindow (s : State) (idx : Index) (run : Nat → State) : State :=
  if idx.toNat < s.profile.nwin then run idx.toNat else s.raise .badIndex

end Sys2Proof.Machine
end

