-- ==== Sys2Proof/Machine/Access.lean ====
section
/-! DEFINITION. The register access commands NOP, LI, LIH, LDR, STR (40_register_access.md). -/

namespace Sys2Proof.Machine

/-- NOP does nothing (40 R140). -/
def execNop (s : State) : Result := .next s

/-- LI: `x[rd] <- zext_32(imm16)` (40 R142). -/
def execLi (rd : RegNum) (imm : BitVec 16) (s : State) : Result := .next (s.setReg rd (imm.setWidth 32))

/-- LIH: the upper half is replaced and the lower half kept (40 R144). -/
def execLih (rd : RegNum) (imm : BitVec 16) (s : State) : Result :=
  .next (s.setReg rd (imm ++ (s.reg rd).extractLsb' 0 16))

/-- LDR: `x[rd] <- MemRead(off12, 4)`, or `BADADDR` (40 R146). -/
def execLdr (rd : RegNum) (off : Offset) (s : State) : Result :=
  match memRead s off with
  | none => .next (s.raise .badAddr)
  | some v => .next (s.setReg rd v)

/-- STR: `MemWrite(off12, 4, x[rs])`, or `BADADDR` (40 R148). -/
def execStr (rs : RegNum) (off : Offset) (s : State) : Result :=
  match memWrite s off (s.reg rs) with
  | none => .next (s.raise .badAddr)
  | some s' => .next s'

end Sys2Proof.Machine
end

