-- ==== Sys2Proof/Machine/Blend.lean ====
section
/-! DEFINITION. The blend factor compositor: DERIVE, BLEND, CLUBLEND (43_blend.md). -/

namespace Sys2Proof.Machine

/-- The fields of a blend-control word that a rule names; the others are 0 (10 R55, 43 R243). -/
structure ControlWord where
  colorMode : Bool
  blendMode : BitVec 2
  alphaCalMode : Bool
  factorMode : BitVec 3
  alphaEn : Bool
  srcDstSwap : Bool
  glbAlpha : BitVec 8
deriving DecidableEq, Repr

/-- `pack(...)` with `alpha_mode = 0` (43 R243), in the layout of 10 R55. -/
def packControl (f : ControlWord) : Word :=
  0#8 ++ f.glbAlpha ++ 0#6 ++ flagBit f.srcDstSwap ++ flagBit f.alphaEn ++ f.factorMode ++ flagBit f.alphaCalMode ++
    f.blendMode ++ 0#1 ++ flagBit f.colorMode

/-- `blend_mode` of 43 R242: Global 0, PerPixel 1, PerPixelAndGlobal 2. -/
def blendMode (srcPixEn glbEn : Bool) : BitVec 2 := if !srcPixEn then 0 else if !glbEn then 1 else 2

/-- `derive(cfg, swap)` (43 R243). -/
def deriveWords (a : AlphaConfig) (swap : Bool) : BlendWords :=
  let srcGlbEn := a.srcGlb != 0xFF
  let dstGlbEn := a.dstGlb != 0xFF
  let bm := blendMode a.srcPixEn srcGlbEn
  { srcColor := packControl
      { colorMode := if bm = 2 then false else !a.srcPremulti
        blendMode := bm
        alphaCalMode := false
        factorMode := if bm = 1 then 1 else 5
        alphaEn := true
        srcDstSwap := swap
        glbAlpha := a.srcGlb }
    dstColor := packControl
      { colorMode := !a.dstPremulti
        blendMode := 0
        alphaCalMode := false
        factorMode := 3
        alphaEn := false
        srcDstSwap := false
        glbAlpha := a.dstGlb }
    srcAlpha := packControl
      { colorMode := false
        blendMode := bm
        alphaCalMode := false
        factorMode := 1
        alphaEn := false
        srcDstSwap := false
        glbAlpha := 0 }
    dstAlpha := packControl
      { colorMode := false
        blendMode := if a.dstPixEn && !dstGlbEn then 1 else 2
        alphaCalMode := true
        factorMode := 3
        alphaEn := false
        srcDstSwap := false
        glbAlpha := 0 } }

/-- DERIVE: the derive function applied to `ACFG` (43 R250). -/
def execDerive (s : State) : Result := .next { s with bw := deriveWords s.acfg false }

/-- The pass-through record (43 R268). -/
def passThrough : AlphaConfig := ⟨true, true, false, true, 0xFF, 0xFF⟩

/-- The window on a layer of the staged selector (43 R260); 10 R42 says that there is one (log entry 10). -/
def windowOn (s : State) (layer : Nat) : Nat :=
  ((List.range s.profile.nwin).find? fun w => selCode s.profile w == getAt s.layerSel layer).getD 0

/-- `bla`, the bottom-layer-alpha case of port `P` (43 R265). -/
def bottomAlpha (s : State) (P : Nat) : Bool :=
  let bottom := windowOn s (s.port P).start.toNat
  decide ((s.port P).nrLayers.toNat ≥ 1) && decide (classOf s.profile bottom ≠ .cluster) &&
    (s.win bottom).glbAlpha != 0xFF

/-- The record of stage `z` of port `P` (43 R260), in the precedence of R267: the bottom stage (R263), the stage above a
bottom window with a global alpha (R265), a cluster window (R266), the standard stage (R264). -/
def stageConfig (s : State) (P z : Nat) : AlphaConfig :=
  let base := (s.port P).start.toNat
  let w := windowOn s (base + z)
  let win := s.win w
  if z = 0 then ⟨win.premulti, true, false, true, 0xFF, 0xFF⟩
  else if z = 1 ∧ bottomAlpha s P then
    ⟨win.premulti, false, win.pixAlpha, true, win.glbAlpha, (s.win (windowOn s base)).glbAlpha⟩
  else if classOf s.profile w = .cluster then ⟨win.premulti, true, true, true, 0xFF, 0xFF⟩
  else ⟨win.premulti, true, win.pixAlpha, true, win.glbAlpha, 0xFF⟩

/-- `write_slot(m, words, P)` (43 R260): the staged words and the owner of slot `m`. -/
def writeSlot (slots : Vector MixSlot 8) (P m : Nat) (words : BlendWords) : Vector MixSlot 8 :=
  modAt slots m fun sl => { sl with valid := true, owner := BitVec.ofNat 2 P, words := words }

/-- The number of slots that lie in some port's range (43 R260 `T`). -/
def usedSlots (s : State) : Nat := ((List.range s.profile.nport).map fun q => (s.port q).wcnt.toNat).sum

/-- The slots from `lo` up to and not including `hi`. -/
def slotRange (lo hi : Nat) : List Nat := (List.range (hi - lo)).map (lo + ·)

/-- The mixer chain of port `P` (43 R260): the stages, then pass-through in the rest of the port's range and above every
range (R268). -/
def State.blend (s : State) (P : Nat) : State :=
  let base := (s.port P).start.toNat
  let n := (s.port P).nrLayers.toNat
  let c := (s.port P).wcnt.toNat
  let stages := (List.range n).foldl
    (fun acc z => writeSlot acc P (base + z) (deriveWords (stageConfig s P z) false)) s.slots
  let unused := slotRange (base + n) (base + c) ++ slotRange (usedSlots s) s.profile.nmixer
  { s with slots := unused.foldl (fun acc m => writeSlot acc P m (deriveWords passThrough false)) stages }

/-- BLEND (43 R260); a stale assignment is `BADCFG` (R271). -/
def execBlend (p : Index) (s : State) : Result :=
  .next (s.withPort p fun P => if (s.port P).rangeChg then s.raise .badCfg else s.blend P)

/-- The record and the swap of the stage inside cluster window `w` (43 R275): sub off (R276), sub above main (R277), sub
below main (R278). -/
def clusterConfig (win : Window) : AlphaConfig × Bool :=
  if !win.sub.en then (⟨false, false, false, true, 0x00, win.glbAlpha⟩, false)
  else if !win.sub.below then
    (⟨win.sub.premulti, false, win.sub.pixAlpha, true, win.sub.glbAlpha, win.glbAlpha⟩, false)
  else (⟨win.premulti, false, win.pixAlpha, true, win.glbAlpha, win.sub.glbAlpha⟩, true)

/-- CLUBLEND (43 R275); `BADINDEX` also for a window that is no cluster. -/
def execClublend (w : Index) (s : State) : Result :=
  .next (s.withWindow w fun w =>
    if classOf s.profile w = .cluster then
      s.modWin w fun win => { win with clu := deriveWords (clusterConfig win).1 (clusterConfig win).2 }
    else s.raise .badIndex)

end Sys2Proof.Machine
end

