-- ==== Sys2Proof/Machine/Commit.lean ====
section
/-! DEFINITION. The config commit arbiter: PENDBITS, CFGDONE, FSWAIT, STANDBY, ENABLE (44_commit.md). -/

namespace Sys2Proof.Machine

/-- The scanline count that PENDBITS reads of another port: the line counter of a port that runs, and 0 of a stopped port
(44 R321). DESIGN CHOICE (log entry 21): `VP_VCNT` of a port stopped by dsp-hold keeps its count (44 R310, 60 R352), so the
formulas of R292 and R294 applied to the register would differ; R321 and the last sentence of R292 are followed. -/
def scanCount (pt : Port) : Nat := if pt.run then pt.vcnt.toNat else 0

/-- `in_last_eighth(O)` (44 R292), on the count of `scanCount`: false for a stopped port. -/
def inLastEighth (pt : Port) : Bool := decide (scanCount pt > (pt.vtotal.toNat * 7) >>> 3)

/-- `lines_left(O)` (44 R294), on the count of `scanCount`: a whole frame for a stopped port (R321). -/
def linesLeft (pt : Port) : Nat := if pt.vtotal.toNat > scanCount pt then pt.vtotal.toNat - scanCount pt else 0

/-- `left_us(O)` (44 R294), for a port whose pixel clock is not 0. -/
def leftUs (pt : Port) : Nat := (pt.htotal.toNat * linesLeft pt * 1000) / pt.pclk.toNat

/-- `frame_us(O)` (44 R294), for a port whose pixel clock is not 0. -/
def frameUs (pt : Port) : Nat := (pt.htotal.toNat * pt.vtotal.toNat * 1000) / pt.pclk.toNat

/-- The safe trailing window of a port (44 R294). -/
def safeUs (pt : Port) : Nat := frameUs pt >>> 3

/-- The margin-difference analysis of step 4 (44 R295): which of two pending ports to wait for. -/
def marginPort (pt1 pt2 : Port) (o1 o2 : Nat) : Nat :=
  if leftUs pt1 > leftUs pt2 then (if leftUs pt1 - leftUs pt2 > safeUs pt1 then o2 else o1)
  else (if leftUs pt2 - leftUs pt1 > safeUs pt2 then o1 else o2)

/-- The algorithm of PENDBITS for port `P` (44 R290, R291). -/
def State.pendbits (s : State) (rd : RegNum) (P : Nat) : State :=
  if !s.profile.sharedLatch then s.setReg rd 0
  else
    let others := otherPending s P
    let o1 := lowest others
    if others = 0 then s.setReg rd 0
    else if popcount others = 1 then
      if inLastEighth (s.port o1) then s.hold .done o1 (.pendbits rd P)
      else s.setReg rd (others.setWidth 32)
    else
      let o2 := lowest (others &&& ~~~(bit 4 o1))
      let pt1 := s.port o1
      let pt2 := s.port o2
      if pt1.pclk = 0 ∨ pt2.pclk = 0 then s.raise .timing
      else if leftUs pt1 > safeUs pt1 ∧ leftUs pt2 > safeUs pt2 then s.setReg rd (others.setWidth 32)
      else s.hold .done (marginPort pt1 pt2 o1 o2) (.pendbits rd P)

/-- PENDBITS (44 R290). -/
def execPendbits (rd : RegNum) (p : Index) (s : State) : Result := .next (s.withPort p fun P => s.pendbits rd P)

/-- A write in the masked mode of 20 R91, with the enables given apart: bit `i` takes the value's bit where its enable
is 1. -/
def maskedWrite (enable old value : BitVec 4) : BitVec 4 := (value &&& enable) ||| (old &&& ~~~enable)

/-- `CFG_DONE.PEND` after the commit of port `P` with the carried bits `v` (44 R300): the shared latch is replaced (R301),
of independent bits only `P`'s is written (R302). -/
def commitPend (shared : Bool) (pend : BitVec 4) (P : Nat) (v : BitVec 4) : BitVec 4 :=
  if shared then bit 4 P ||| v else maskedWrite (bit 4 P) pend (bit 4 P)

/-- CFGDONE (44 R300). -/
def execCfgdone (rs : RegNum) (p : Index) (s : State) : Result :=
  .next (s.withPort p fun P =>
    let v := s.reg rs
    if v >>> s.profile.nport ≠ 0 then s.raise .operand
    else { s with pend := commitPend s.profile.sharedLatch s.pend P (v.extractLsb' 0 4), glbEn := true })

/-- FSWAIT and FSWAIT.C (44 R305). -/
def execFswait (c : Bool) (p : Index) (s : State) : Result :=
  .next (s.withPort p fun P =>
    if c && !(s.port P).lselChg then s else s.hold .done P (.fswait c P))

/-- STANDBY (44 R310): `STBY` is set; a stopped port only loses `DSPHOLD`, a running one is waited for. -/
def execStandby (p : Index) (s : State) : Result :=
  .next (s.withPort p fun P =>
    let s1 := s.modPort P fun pt => { pt with stby := true }
    if (s.port P).run then s1.hold .dspHold P (.standby P)
    else s1.modPort P fun pt => { pt with dspHold := false })

/-- ENABLE (44 R315). -/
def execEnable (p : Index) (s : State) : Result :=
  .next (s.withPort p fun P =>
    let pt := s.port P
    if pt.htotal = 0 ∨ pt.vtotal = 0 ∨ pt.pclk = 0 then s.raise .timing
    else s.modPort P fun pt =>
      { pt with stby := false, dspHold := false, run := true, vcnt := if pt.run then pt.vcnt else 0 })

end Sys2Proof.Machine
end

