-- ==== Sys2Proof/Machine/Layers.lean ====
section
/-! DEFINITION. The layer assignment mux: WINDIS, ASSIGN, PMUXWAIT (42_layer_assignment.md). ASSIGN is written step by step as
R210 lists the steps; each loop is a fold in the loop's order. -/

namespace Sys2Proof.Machine

/-- WINDIS: clears `EN`, and `SUB_EN` of a cluster window; nothing else (42 R202, R203). -/
def execWindis (w : Index) (s : State) : Result :=
  .next (s.withWindow w fun w =>
    s.modWin w fun win =>
      { win with
        en := false
        sub := if classOf s.profile w = .cluster then { win.sub with en := false } else win.sub })

/-- The check of ASSIGN: every enabled window, of every port, has exactly one `VPMASK` bit, of a port that exists (42
R210). -/
def assignable (s : State) : Bool :=
  (List.range s.profile.nwin).all fun w =>
    !(s.win w).en || (popcount (s.win w).vpMask == 1 && decide ((s.win w).vpMask.toNat < 2 ^ s.profile.nport))

/-- One window of `migrate(P)` (42 R211): if it is enabled for `P` and not in `P`'s mask, it leaves every other mask, whose
port is noted in `lost`, and enters `P`'s. -/
def migrateWindow (c : Profile) (wins : Vector Window 8) (P : Nat) (acc : Vector Port 4 × BitVec 4) (w : Nat) :
    Vector Port 4 × BitVec 4 :=
  if (getAt wins w).en && namesPort (getAt wins w).vpMask P && !(getAt acc.1 P).winMask.getLsbD w then
    let cleared := (List.range c.nport).foldl
      (fun (a : Vector Port 4 × BitVec 4) q =>
        if q ≠ P ∧ (getAt a.1 q).winMask.getLsbD w then
          (modAt a.1 q fun pt => { pt with winMask := pt.winMask &&& ~~~(bit 8 w) }, a.2 ||| bit 4 q)
        else a) acc
    (modAt cleared.1 P fun pt => { pt with winMask := pt.winMask ||| bit 8 w }, cleared.2)
  else acc

/-- Step 1, `migrate(P)` (42 R211): the ports after it and the set `lost`. -/
def migrate (c : Profile) (wins : Vector Window 8) (P : Nat) (ports : Vector Port 4) : Vector Port 4 × BitVec 4 :=
  (List.range c.nwin).foldl (migrateWindow c wins P) (ports, 0)

/-- The number of windows in port `q`'s mask (42 R212). -/
def windowCount (ports : Vector Port 4) (q : Nat) : Nat := popcount (getAt ports q).winMask

/-- The sum of the counts of the ports below `q` (42 R212). -/
def startOf (ports : Vector Port 4) (q : Nat) : Nat := ((List.range q).map (windowCount ports)).sum

/-- Step 2, `recount(P)` (42 R212): `WCNT` and `START` of every port from the masks; `RANGE_CHG` set on another port whose
start moved or that lost a window, and cleared on `P`. -/
def recount (c : Profile) (P : Nat) (lost : BitVec 4) (ports : Vector Port 4) : Vector Port 4 :=
  (List.range c.nport).foldl
    (fun (acc : Vector Port 4) q =>
      modAt acc q fun pt =>
        let start := BitVec.ofNat 4 (startOf ports q)
        { pt with
          wcnt := BitVec.ofNat 4 (windowCount ports q)
          start := start
          rangeChg := if q = P then false else pt.rangeChg || start != pt.start || lost.getLsbD q })
    ports

/-- A window is active on port `P` (42 R201). -/
def activeOn (wins : Vector Window 8) (ports : Vector Port 4) (P w : Nat) : Bool :=
  (getAt wins w).en && namesPort (getAt wins w).vpMask P && (getAt ports P).winMask.getLsbD w

/-- The order of the sort: ascending in the pair (`ZPOS`, window index) (42 R213). -/
abbrev below (wins : Vector Window 8) (v w : Nat) : Prop :=
  (getAt wins v).zpos.toNat < (getAt wins w).zpos.toNat ∨ ((getAt wins v).zpos = (getAt wins w).zpos ∧ v ≤ w)

/-- Step 3, `sort_active(P)` (42 R213): the active windows, the bottom one first. -/
def sortActive (c : Profile) (wins : Vector Window 8) (ports : Vector Port 4) (P : Nat) : List Nat :=
  ((List.range c.nwin).filter (activeOn wins ports P)).insertionSort (below wins)

/-- The layer whose field of the selector is the code of window `w`; it exists and is unique (10 R42). -/
def layerOf (c : Profile) (sel : Vector (BitVec 4) 8) (w : Nat) : Option Nat :=
  (List.range c.nlayer).find? fun l => getAt sel l == selCode c w

/-- `swap_assign(L, w)` (42 R214): window `w` goes to layer `L`, and the window that was there to the layer vacated. A
selector that does not hold `w`'s code is left as it is (log entry 10; 10 R42 says there is none). -/
def swapAssign (c : Profile) (sel : Vector (BitVec 4) 8) (L w : Nat) : Vector (BitVec 4) 8 :=
  match layerOf c sel w with
  | none => sel
  | some L' => if L' ≠ L then setAt (setAt sel L (selCode c w)) L' (getAt sel L) else sel

/-- Step 4 (42 R210, R214): `act[z]` to layer `start + z`, in ascending `z`. -/
def placeWindows (c : Profile) (start : Nat) (act : List Nat) (sel : Vector (BitVec 4) 8) : Vector (BitVec 4) 8 :=
  act.zipIdx.foldl (fun acc wz => swapAssign c acc (start + wz.2) wz.1) sel

/-- Step 5, `portmux()` (42 R215): the last slot of each port's range, or 8 for a port with no window. -/
def portMuxOf (c : Profile) (ports : Vector Port 4) (mux : Vector (BitVec 4) 4) : Vector (BitVec 4) 4 :=
  (List.range c.nport).foldl
    (fun acc q =>
      setAt acc q (if (getAt ports q).wcnt = 0 then 8#4 else (getAt ports q).start + (getAt ports q).wcnt - 1))
    mux

/-- The five steps of ASSIGN for port `P`, after its checks (42 R210 to R216). -/
def State.assign (s : State) (P : Nat) : State :=
  let moved := migrate s.profile s.wins P s.ports
  let counted := recount s.profile P moved.2 moved.1
  let act := sortActive s.profile s.wins counted P
  let sel := placeWindows s.profile (getAt counted P).start.toNat act s.layerSel
  { s with
    ports := modAt counted P fun pt =>
      { pt with nrLayers := BitVec.ofNat 4 act.length, lselChg := pt.lselChg || decide (sel ≠ s.layerSel) }
    layerSel := sel
    portMux := portMuxOf s.profile counted s.portMux }

/-- ASSIGN (42 R210). -/
def execAssign (p : Index) (s : State) : Result :=
  .next (s.withPort p fun P => if assignable s then s.assign P else s.raise .badCfg)

/-- PMUXWAIT (42 R220). -/
def execPmuxwait (s : State) : Result := .next (s.hold .pmux 0 .pmuxwait)

end Sys2Proof.Machine
end

