-- ==== Sys2Proof/Machine/Flags.lean ====
section
/-! DEFINITION. Every computation of `FLAGS` (10_state.md R23): PRESCL writes bits 3:0 and leaves bit 4, SCLFAC and SCLAUTO
write bit 4 and leave bits 3:0, no other command writes the register. -/

namespace Sys2Proof.Machine

/-- What pre-scale a direction engages (41 R170). -/
inductive Prescale where
  | none
  | by2
  | by4
deriving DecidableEq, Repr

/-- `FLAGS[3:0] <- f` of PRESCL (41 R170): the decimation flags, or the averaging flags on a generation that averages
(R171). Bit 4 is left. -/
def Flags.setPrescale (f : Flags) (useAvg : Bool) (p : Prescale) : Flags :=
  { f with
    gt2 := decide (p = .by2) && !useAvg
    gt4 := decide (p = .by4) && !useAvg
    avg2 := decide (p = .by2) && useAvg
    avg4 := decide (p = .by4) && useAvg }

/-- `FLAGS[4] <- cal` of SCLFAC and SCLAUTO (41 R180). Bits 3:0 are left. -/
def Flags.setCal (f : Flags) (cal : Bool) : Flags := { f with cal := cal }

end Sys2Proof.Machine
end

