-- ==== Sys2Proof/Machine/Scaling.lean ====
section
/-! DEFINITION. The scaling unit: SCLMODE, PRESCL, SCLFAC, SCLAUTO, CHRDIM (41_scaling.md). Arithmetic is on natural numbers
(00_scope.md R11) and is cut to a word only where a result is written; R186 says that nothing is lost there. -/

namespace Sys2Proof.Machine

/-- SCLMODE: the mode's code to `x[rd]`; no range check, no flag (41 R162). -/
def execSclmode (rd rs1 rs2 : RegNum) (s : State) : Result :=
  .next (s.setReg rd ((modeCode (selectMode (s.reg rs1) (s.reg rs2))).setWidth 32))

/-- The pre-scale that a source and a destination dimension engage: gt4 is tested first (41 R170, R172), and nothing is
engaged on a generation without pre-scale (R173). -/
def prescaleOf (c : Profile) (src dst : Nat) : Prescale :=
  if !c.prescaleCap then .none
  else if src ≥ 4 * dst then .by4
  else if src ≥ 2 * dst then .by2
  else .none

/-- The decimated source dimension (41 R170); the shift drops the low bits. -/
def decimate (p : Prescale) (src : Nat) : Nat :=
  match p with
  | .none => src
  | .by2 => src >>> 1
  | .by4 => src >>> 2

/-- PRESCL (41 R170); averaging only where the generation has it (R171). -/
def execPrescl (rd rs1 rs2 : RegNum) (avg : Bool) (s : State) : Result :=
  let src := s.reg rs1
  let dst := s.reg rs2
  if dimOk src && dimOk dst then
    let p := prescaleOf s.profile src.toNat dst.toNat
    .next { s.setReg rd (BitVec.ofNat 32 (decimate p src.toNat)) with
      flags := s.flags.setPrescale (avg && s.profile.avgCap) p }
  else .next (s.raise .operand)

/-- The correction loop (41 R180): while the bound is not used up and `(fac * (d - 1)) >> k >= s - 1`, the factor goes down
by one and `cal` is set. -/
def correct (k srcM1 dstM1 : Nat) : Nat → Nat → Bool → Nat × Bool
  | 0, fac, cal => (fac, cal)
  | n + 1, fac, cal =>
    if (fac * dstM1) >>> k ≥ srcM1 then correct k srcM1 dstM1 n (fac - 1) true else (fac, cal)

/-- The number of fraction bits (41 R180): 12 for bilinear down, 16 for everything else. -/
def fractionBits (mode : ScaleMode) (bil : Bool) : Nat := if mode = .down ∧ bil then 12 else 16

/-- The dimensions the formula uses: both are incremented when either is 1 (41 R183). -/
def widenUnit (src dst : Nat) : Nat × Nat := if src = 1 ∨ dst = 1 then (src + 1, dst + 1) else (src, dst)

/-- The factor and the flag `cal` (41 R180 from "if mode = 0" on). -/
def scaleFactor (mode : ScaleMode) (bil : Bool) (src dst : Nat) : Nat × Bool :=
  match mode with
  | .none => (0, false)
  | _ =>
    let sd := widenUnit src dst
    let k := fractionBits mode bil
    correct k (sd.1 - 1) (sd.2 - 1) calIterMax (((sd.1 - 1) <<< k) / (sd.2 - 1)) false

/-- A factor and its flag written: `x[rd] <- fac`, `FLAGS[4] <- cal` (41 R180). -/
def State.writeFactor (s : State) (rd : RegNum) (r : Nat × Bool) : State :=
  { s.setReg rd (BitVec.ofNat 32 r.1) with flags := s.flags.setCal r.2 }

/-- SCLFAC (41 R180): the reserved mode first, then the operand range. -/
def execSclfac (rd rs1 rs2 : RegNum) (mode : BitVec 2) (bil : Bool) (s : State) : Result :=
  match modeOfCode mode with
  | none => .next (s.raise .illCmd)
  | some m =>
    if dimOk (s.reg rs1) && dimOk (s.reg rs2) then
      .next (s.writeFactor rd (scaleFactor m bil (s.reg rs1).toNat (s.reg rs2).toNat))
    else .next (s.raise .operand)

/-- SCLAUTO: the mode of SCLMODE, the factor of SCLFAC, no pre-scale (41 R188). -/
def execSclauto (rd rs1 rs2 : RegNum) (bil : Bool) (s : State) : Result :=
  if dimOk (s.reg rs1) && dimOk (s.reg rs2) then
    .next (s.writeFactor rd
      (scaleFactor (selectMode (s.reg rs1) (s.reg rs2)) bil (s.reg rs1).toNat (s.reg rs2).toNat))
  else .next (s.raise .operand)

/-- CHRDIM: `x[rd] <- x[rs1] >> s`; `s = 3` is reserved (41 R192). -/
def execChrdim (rd rs1 : RegNum) (sub : BitVec 2) (s : State) : Result :=
  if sub = 3 then .next (s.raise .illCmd) else .next (s.setReg rd (s.reg rs1 >>> sub.toNat))

end Sys2Proof.Machine
end

