-- ==== Sys2Proof/Machine/Dispatch.lean ====
section
/-! DEFINITION. One arm per command: the meaning of the command in Machine/<Family>.lean. -/

namespace Sys2Proof.Machine

/-- The effect of a command after its word was accepted, so that `SEQ` has gone up already (30 R110). -/
def exec (i : Instr) (s : State) : Host.Outcome State Fault Refusal :=
  match i with
  | .nop => Sys2Proof.Machine.execNop s
  | .li rd imm => Sys2Proof.Machine.execLi rd imm s
  | .lih rd imm => Sys2Proof.Machine.execLih rd imm s
  | .ldr rd off => Sys2Proof.Machine.execLdr rd off s
  | .str rs off => Sys2Proof.Machine.execStr rs off s
  | .sclmode rd rs1 rs2 => Sys2Proof.Machine.execSclmode rd rs1 rs2 s
  | .prescl rd rs1 rs2 avg => Sys2Proof.Machine.execPrescl rd rs1 rs2 avg s
  | .sclfac rd rs1 rs2 mode bil => Sys2Proof.Machine.execSclfac rd rs1 rs2 mode bil s
  | .sclauto rd rs1 rs2 bil => Sys2Proof.Machine.execSclauto rd rs1 rs2 bil s
  | .chrdim rd rs1 sub => Sys2Proof.Machine.execChrdim rd rs1 sub s
  | .windis w => Sys2Proof.Machine.execWindis w s
  | .assign p => Sys2Proof.Machine.execAssign p s
  | .pmuxwait => Sys2Proof.Machine.execPmuxwait s
  | .derive => Sys2Proof.Machine.execDerive s
  | .blend p => Sys2Proof.Machine.execBlend p s
  | .clublend w => Sys2Proof.Machine.execClublend w s
  | .pendbits rd p => Sys2Proof.Machine.execPendbits rd p s
  | .cfgdone rs p => Sys2Proof.Machine.execCfgdone rs p s
  | .fswait c p => Sys2Proof.Machine.execFswait c p s
  | .standby p => Sys2Proof.Machine.execStandby p s
  | .enable p => Sys2Proof.Machine.execEnable p s

end Sys2Proof.Machine
end

