-- ==== Sys2Proof/Machine/Events.lean ====
section
/-! DEFINITION. The steps of the agents other than the host: line ticks with the frame boundary (60_exceptions.md R351,
44_commit.md R320), dsp-hold (60 R352), timeout (R353), resume (R355), and reset (70_reset_and_hazards.md R381). An event
that is not enabled does not happen (log entry 4). -/

namespace Sys2Proof.Machine

/-- Slot `m` at the boundary of port `p`: its owner's boundary copies its words (44 R320). -/
def latchSlot (p : Nat) (sl : MixSlot) : MixSlot :=
  if sl.valid && sl.owner.toNat == p then { sl with act := sl.words } else sl

/-- Window `w` at the boundary of port `p`: the port its `VPMASK` names copies its scaling registers and, for a cluster,
the words of its inner stage (44 R320). -/
def latchWindow (c : Profile) (p w : Nat) (win : Window) : Window :=
  if namesPort win.vpMask p then
    { win with
      sclAct := win.scl
      cluAct := if classOf c w = .cluster then win.clu else win.cluAct }
  else win

/-- What a frame boundary of port `p` copies when the port's pending bit is set (44 R320), as one atomic step. -/
def State.latch (s : State) (p : Nat) : State :=
  { s with
    layerSelAct := s.layerSel
    portMuxAct := s.portMux
    slots := (List.range s.profile.nmixer).foldl (fun acc m => modAt acc m (latchSlot p)) s.slots
    wins := (List.range s.profile.nwin).foldl (fun acc w => modAt acc w (latchWindow s.profile p w)) s.wins
    pend := s.pend &&& ~~~(bit 4 p) }

/-- The frame boundary of port `p` (44 R320): without a pending bit nothing is copied. -/
def State.boundary (s : State) (p : Nat) : State := if s.pend.getLsbD p then s.latch p else s

/-- `LineTick(p)` (60 R351), enabled when the port runs. -/
def State.lineTick (s : State) (p : Nat) : State :=
  if p < s.profile.nport ∧ (s.port p).run then
    if (s.port p).vcnt.toNat + 1 ≥ (s.port p).vtotal.toNat then
      (s.modPort p fun pt => { pt with vcnt := 0 }).boundary p
    else s.modPort p fun pt => { pt with vcnt := pt.vcnt + 1 }
  else s

/-- `DspHold(p)` (60 R352), enabled when the port runs and is asked to stand by. -/
def State.dspHoldEvent (s : State) (p : Nat) : State :=
  if p < s.profile.nport ∧ (s.port p).stby ∧ (s.port p).run then
    s.modPort p fun pt => { pt with run := false, dspHold := true }
  else s

/-- `Timeout` (60 R353), enabled while a command waits: the `LOG` bit of the kind, and the rest of the command. -/
def State.timeoutEvent (s : State) : State :=
  match s.wait with
  | .idle => s
  | .waiting kind _ rest => { s with wait := .idle, log := s.log ||| logBit kind }.finish false rest

/-- The wait's condition holds, or nothing waits. -/
def State.waitOver (s : State) : Bool :=
  match s.wait with
  | .idle => true
  | .waiting kind port _ => waitCondition s kind port

/-- `Resume` (60 R355), enabled while a command waits and its condition holds. -/
def State.resumeEvent (s : State) : State :=
  match s.wait with
  | .idle => s
  | .waiting kind port rest =>
    if waitCondition s kind port then { s with wait := .idle }.finish true rest else s

/-- Reset (70 R381): every register of the block; the profile is not changed, and what the host has yet to do and has read
is not the block's (log entry 17). -/
def State.resetEvent (s : State) : State :=
  { State.resetOf s.profile with hostOps := s.hostOps, schedule := s.schedule, readData := s.readData }

end Sys2Proof.Machine
end

