-- ==== Sys2Proof/Machine/HostPort.lean ====
section
/-! DEFINITION. The host's side: bus reads, bus writes, the acceptance of a command word (30_encoding.md R110), the hold of the
host port during a wait (20_memory.md R96), and the turn of each agent (60_exceptions.md R350, R356). -/

namespace Sys2Proof.Machine

/-- The offset of `CMD` (10 R26). -/
def cmdOffset : Offset := 0x008

/-- The block with one more word counted in `SEQ`, which happens before the command's other effects and wraps at 32 bits
(10 R22). -/
def State.countWord (s : State) : State := { s with seq := s.seq + 1 }

/-- The acceptance of a command word (30 R110): `SEQ` goes up, the word is decoded, a word that is no command raises
`ILLCMD`, a command runs. -/
def acceptWord (bits : Word) (s : State) : Result :=
  match decode bits with
  | .error _ => .next (s.countWord.raise .illCmd)
  | .ok i => exec i s.countWord

/-- A bus read (20 R84): the value goes to the host; a read that raises `BADADDR` returns 0. -/
def busRead (off : Offset) (s : State) : State :=
  match memRead s off with
  | none => { s.raiseBus with readData := some 0 }
  | some v => { s with readData := some v }

/-- A bus write (20 R85): to `CMD` it is a command (10 R26), anywhere else it is `MemWrite`. -/
def busWrite (off : Offset) (v : Word) (s : State) : Result :=
  if off = cmdOffset then acceptWord v s
  else
    match memWrite s off v with
    | none => .next s.raiseBus
    | some s' => .next s'

/-- The host's turn: its next access in program order. A write or a command word is held while a command waits; a read is
not (20 R96). -/
def hostTurn (s : State) : Result :=
  match s.hostOps with
  | [] => .next s
  | .busRead off :: rest => .next (busRead off { s with hostOps := rest })
  | .busWrite off v :: rest => if s.busy then .next s else busWrite off v { s with hostOps := rest }

/-- The turn of an agent (60 R356). -/
def turn (a : Agent) (s : State) : Result :=
  match a with
  | .host => hostTurn s
  | .lineTick p => .next (s.lineTick p)
  | .dspHold p => .next (s.dspHoldEvent p)
  | .timeout => .next s.timeoutEvent
  | .resume => .next s.resumeEvent
  | .reset => .next s.resetEvent

/-- Whose turn it is: the schedule's first entry. Past its end the host moves, or, while a command waits, what ends the
wait: `Resume` when the condition holds and `Timeout` when it does not (log entry 3; 60 R354 lets any enabled step be the
next, and asks that every wait ends). -/
def nextAgent (s : State) : Agent :=
  match s.schedule with
  | a :: _ => a
  | [] => if s.busy then (if s.waitOver then .resume else .timeout) else .host

end Sys2Proof.Machine
end

