-- ==== Sys2Proof/Machine/Step.lean ====
section
/-! DEFINITION. One step of the machine: the turn of the agent whose turn it is (60_exceptions.md R356). -/

namespace Sys2Proof.Machine

/-- One step. A profile that breaks 00 R9 is refused; nothing else stops the machine. -/
def step (s : State) : Host.Outcome State Fault Refusal :=
  if s.profile.WellFormed then turn (nextAgent s) { s with schedule := s.schedule.tail }
  else .refused .badProfile

/-- `s` with the command word `w` (its bits above `nbits` zero) as the host's next access, a bus write to `CMD`, the host's
turn first, and no command waiting: the very next step accepts and runs it (log entry 2). -/
def State.withFetchWord (s : State) (nbits w : Nat) : State :=
  { s with
    hostOps := .busWrite cmdOffset (BitVec.ofNat 32 (w % 2 ^ nbits)) :: s.hostOps
    schedule := .host :: s.schedule
    wait := .idle }

end Sys2Proof.Machine
end

