-- ==== Sys2Proof/Safety.lean ====
section
/-! DEFINITION. What holds of every state a run reaches, in the words of 10_state.md R41 and R42, 41 R172, 42 R212 to R217,
43 R244, R269 and R271, 44 R310 and 60 R341: the invariants that the statements use. Each is about the registers that exist
with the state's parameters. -/

namespace Sys2Proof.Machine

/-- The window masks (10 R39, R41): no bit past `NWIN`, and no window in two masks. -/
abbrev MasksSound (s : State) : Prop :=
  (∀ p < s.profile.nport, ∀ w < 8, s.profile.nwin ≤ w → (s.port p).winMask.getLsbD w = false) ∧
  (∀ p < s.profile.nport, ∀ q < s.profile.nport, p ≠ q → (s.port p).winMask &&& (s.port q).winMask = 0)

/-- `WCNT` and `START` of every port are those of the masks (10 R40, 42 R212). -/
abbrev CountsSound (s : State) : Prop :=
  ∀ p < s.profile.nport,
    (s.port p).wcnt.toNat = windowCount s.ports p ∧ (s.port p).start.toNat = startOf s.ports p

/-- Every field of the staged `PORT_MUX` is the last slot of its port's range, or 8 for a port with no window (42 R215). -/
abbrev MuxSound (s : State) : Prop :=
  ∀ p < s.profile.nport,
    (getAt s.portMux p).toNat =
      if (s.port p).wcnt.toNat = 0 then 8 else (s.port p).start.toNat + (s.port p).wcnt.toNat - 1

/-- With `RANGE_CHG = 0` the layers of a port fit in its range (43 R271). -/
abbrev RangesSound (s : State) : Prop :=
  ∀ p < s.profile.nport, (s.port p).rangeChg = false → (s.port p).nrLayers.toNat ≤ (s.port p).wcnt.toNat

/-- Every layer of the selector holds exactly one window and every window sits in exactly one layer (10 R42). -/
abbrev SelectorSound (c : Profile) (sel : Vector (BitVec 4) 8) : Prop :=
  (∀ l < c.nlayer, ∃ w < c.nwin, getAt sel l = selCode c w) ∧
  (∀ w < c.nwin, ∃ l < c.nlayer, getAt sel l = selCode c w ∧ ∀ l' < c.nlayer, getAt sel l' = selCode c w → l' = l)

/-- The invariant of the layer assignment mux: its masks, counts, ranges, port mux and both copies of the selector. -/
abbrev AssignmentSound (s : State) : Prop :=
  s.profile.WellFormed ∧ MasksSound s ∧ CountsSound s ∧ MuxSound s ∧ RangesSound s ∧
  SelectorSound s.profile s.layerSel ∧ SelectorSound s.profile s.layerSelAct

/-- At most one of `FLAGS[3:0]` is 1 (10 R23, 41 R172). -/
abbrev FlagsExclusive (f : Flags) : Prop :=
  f.gt2.toNat + f.gt4.toNat + f.avg2.toNat + f.avg4.toNat ≤ 1

/-- `FAULTINFO` is filled exactly when some fault was recorded (10 R28, R29). -/
abbrev FaultRecordSound (s : State) : Prop := s.fault = 0 ↔ s.faultInfo = 0

/-- Only ports that exist have a pending bit (10 R31). -/
abbrev PendingSound (s : State) : Prop := s.pend.toNat < 2 ^ s.profile.nport

/-- A port that is not in standby runs (44 R310, R315), and a running port has not reported dsp-hold (60 R352). -/
abbrev PortControlSound (s : State) : Prop :=
  ∀ p < s.profile.nport,
    ((s.port p).stby = true ∨ (s.port p).run = true) ∧ ((s.port p).run = true → (s.port p).dspHold = false)

/-- The wait and the command that waits fit together (10 R62): kind and port are those the command enters the wait with. -/
def waitFits (s : State) : WaitState → Bool
  | .idle => true
  | .waiting kind q (.pendbits _ p) =>
    decide (kind = .done ∧ q < s.profile.nport ∧ p < s.profile.nport ∧ q ≠ p) && s.profile.sharedLatch
  | .waiting kind q .pmuxwait => decide (kind = .pmux ∧ q = 0)
  | .waiting kind q (.fswait _ p) => decide (kind = .done ∧ q = p ∧ p < s.profile.nport)
  | .waiting kind q (.standby p) => decide (kind = .dspHold ∧ q = p ∧ p < s.profile.nport) && (s.port p).stby

/-- The invariant of the commit arbiter: pending bits, port control and the wait state. -/
abbrev CommitSound (s : State) : Prop :=
  s.profile.WellFormed ∧ PendingSound s ∧ PortControlSound s ∧ waitFits s s.wait = true

/-- A blend-control word that uses only the codes of 10 R55: `blend_mode` is not 3, `factor_mode` is at most 5, and the
bits with no field are 0 (43 R244). -/
def legalControl (w : Word) : Bool :=
  w.extractLsb' 2 2 != 3#2 && decide ((w.extractLsb' 5 3).toNat ≤ 5) && (w &&& 0xFF00FC00) == 0

/-- All four words of a stage are legal. -/
def legalWords (b : BlendWords) : Bool :=
  legalControl b.srcColor && legalControl b.dstColor && legalControl b.srcAlpha && legalControl b.dstAlpha

/-- Every control word of the block, staged and active, uses only the codes of 10 R55 (10 R52, 43 R244). -/
abbrev ControlWordsLegal (s : State) : Prop :=
  legalWords s.bw = true ∧
  (∀ m < 8, legalWords (s.slot m).words = true ∧ legalWords (s.slot m).act = true) ∧
  (∀ w < 8, legalWords (s.win w).clu = true ∧ legalWords (s.win w).cluAct = true)

/-- Four words that nothing has written since reset, or that are a value of the derive function (43 R244). -/
def derivedOrZero (b : BlendWords) : Prop := b = .zero ∨ ∃ a swap, b = deriveWords a swap

/-- The content of every set of control words of the block, staged and active, is a value of the derive function, or the
zeros of reset (10 R52). -/
abbrev WordsDerived (s : State) : Prop :=
  derivedOrZero s.bw ∧
  (∀ m < 8, derivedOrZero (s.slot m).words ∧ derivedOrZero (s.slot m).act) ∧
  (∀ w < 8, derivedOrZero (s.win w).clu ∧ derivedOrZero (s.win w).cluAct)

/-- A slot that no BLEND has written since reset holds zeros, and a slot's owner is a port that exists (43 R269). -/
abbrev SlotsOwned (s : State) : Prop :=
  ∀ m < s.profile.nmixer,
    ((s.slot m).valid = false → (s.slot m).words = .zero ∧ (s.slot m).act = .zero) ∧
    ((s.slot m).valid = true → (s.slot m).owner.toNat < s.profile.nport)

/-- The staged scaling registers hold no bit that they do not implement (10 R46, R49, 20 R89). -/
abbrev ScalerBitsSound (s : State) : Prop :=
  ∀ w < s.profile.nwin, ∀ r ∈ [ScalerReg.ctrl, .yrgbX, .yrgbY, .cbcrX, .cbcrY],
    readScaler (s.win w).scl r &&& ~~~(scalerMask s.profile r) = 0

/-- The active copies: what the pixel pipeline uses (10 R60). -/
structure ActiveCopies where
  layerSel : Vector (BitVec 4) 8
  portMux : Vector (BitVec 4) 4
  slots : List BlendWords
  scalers : List ScalerRegs
  clusters : List BlendWords
deriving DecidableEq, Repr

/-- The active copies of a state, for the slots and windows that exist. -/
def State.active (s : State) : ActiveCopies where
  layerSel := s.layerSelAct
  portMux := s.portMuxAct
  slots := (List.range s.profile.nmixer).map fun m => (s.slot m).act
  scalers := (List.range s.profile.nwin).map fun w => (s.win w).sclAct
  clusters := (List.range s.profile.nwin).map fun w => (s.win w).cluAct

/-- A committed frame boundary of port `p` is due at its next line tick: the port exists and runs, its counter wraps, and
its pending bit is set (60 R351, 44 R320). -/
abbrev CommittedBoundaryDue (s : State) (p : Nat) : Prop :=
  p < s.profile.nport ∧ (s.port p).run = true ∧ (s.port p).vtotal.toNat ≤ (s.port p).vcnt.toNat + 1 ∧
  s.pend.getLsbD p = true

/-- ASSIGN `P` would claim window `w`: it is enabled for `P` and not in `P`'s mask (42 R211). -/
def claimed (s : State) (P w : Nat) : Bool :=
  decide (w < s.profile.nwin) && (s.win w).en && namesPort (s.win w).vpMask P && !(s.port P).winMask.getLsbD w

/-- Every enabled window has exactly one `VPMASK` bit, of a port that exists: the check of ASSIGN (42 R210). -/
abbrev VpMasksOneHot (s : State) : Prop :=
  ∀ w < s.profile.nwin, (s.win w).en = true → ∃ q < s.profile.nport, (s.win w).vpMask = 1#4 <<< q

/-- `t` is `s` with `v` in `x[rd]`; every other operand register and all other state is as it was. -/
abbrev WritesOnly (s t : State) (rd : RegNum) (v : Word) : Prop :=
  t.reg rd = v ∧ (∀ r, r ≠ rd → t.reg r = s.reg r) ∧ { t with x := s.x } = s

/-- `t` is `s` with port `p` replaced by `pt`; every other port and all other state is as it was. -/
abbrev PortOnly (s t : State) (p : Nat) (pt : Port) : Prop :=
  t.port p = pt ∧ (∀ q, q ≠ p → t.port q = s.port q) ∧ { t with ports := s.ports } = s

/-- `t` is `s` with window `w` replaced by `win`; every other window and all other state is as it was. -/
abbrev WindowOnly (s t : State) (w : Nat) (win : Window) : Prop :=
  t.win w = win ∧ (∀ v, v ≠ w → t.win v = s.win v) ∧ { t with wins := s.wins } = s

/-- The state after a fault whose bit of `FAULT` is `bits` and whose record is `info` (10 R28, R29, 60 R341). -/
def faultedWith (s : State) (bits : BitVec 6) (info : Word) : State :=
  { s with
    fault := s.fault ||| bits
    faultInfo := if s.faultInfo = 0 then info else s.faultInfo }

/-- The state after a fault of a command: the record holds the low 24 bits of `SEQ` and the code (10 R29, 60 R341). -/
def commandFault (s : State) (bits : BitVec 6) (code : BitVec 8) : State :=
  faultedWith s bits (s.seq.extractLsb' 0 24 ++ code)

/-- The state in which the host's next access `op` is taken: the profile is one of 00 R9 and it is the host's turn. -/
abbrev HostNext (s : State) (op : HostOp) (rest : List HostOp) : Prop :=
  s.profile.WellFormed ∧ nextAgent s = .host ∧ s.hostOps = op :: rest

/-- `s` with the host's next access and the turn taken off their lists. -/
def State.taken (s : State) (rest : List HostOp) : State :=
  { s with hostOps := rest, schedule := s.schedule.tail }

/-- `s` with the turn taken off the schedule. -/
def State.turned (s : State) : State := { s with schedule := s.schedule.tail }

/-- The host's next access is a command word that the block accepts at this step (10 R26). -/
abbrev AcceptsCommand (s : State) : Prop :=
  s.profile.WellFormed ∧ nextAgent s = .host ∧ s.wait = .idle ∧ ∃ v rest, s.hostOps = .busWrite 0x008#12 v :: rest

/-- What no register shows, the parameters and the model's own fields are the same in both states. -/
abbrev SameHidden (s t : State) : Prop :=
  t.profile = s.profile ∧ t.wait = s.wait ∧ t.hostOps = s.hostOps ∧ t.schedule = s.schedule ∧ t.readData = s.readData

end Sys2Proof.Machine
end

