-- ==== Sys2Proof/Certificates/Slice0/Obligations.lean ====
section
/-! DEFINITION. The statements for the provers, one `def Obligations.<Name> : Prop` each. A docstring names the rules of spec/ a
statement formalises, or the log entry or sentence of the spec it rests on. -/

open Sys2Proof Sys2Proof.Machine

/-- Decode and encode are inverse to each other (30 R111 to R115, R118, R119): a word decodes to an instruction exactly
when the instruction is well formed and its encoding is that word. -/
def Obligations.DecodeInvertsEncode : Prop :=
  ∀ (bits : Word) (i : Instr), decode bits = .ok i ↔ (i.wellFormed = true ∧ encode i = bits)

/-- Decoding by the table (30 R119, with the masks and matches of R117): a word is a command of a row exactly when it
matches the row and is not one of the two reserved values of R118, and at most one row matches. -/
def Obligations.DecodeFollowsTable : Prop :=
  (∀ (bits : Word) (op : Op),
    (∃ i, decode bits = .ok i ∧ i.op = op) ↔
      bits &&& op.maskWord = op.matchWord ∧ ¬ ((op = .sclfac ∨ op = .chrdim) ∧ bits.extractLsb' 0 2 = 3#2)) ∧
  (∀ (bits : Word) (op op' : Op),
    bits &&& op.maskWord = op.matchWord → bits &&& op'.maskWord = op'.matchWord → op = op')

/-- Seven words written out in the rules of the spec decode to the command and the operands the rule gives with the word,
at least one word of every family. -/
def Obligations.SpecWordsDecode : Prop :=
  decode 0x04C01234 = .ok (.li 3 0x1234) ∧
  decode 0x11400210 = .ok (.str 5 0x210) ∧
  decode 0x48C48006 = .ok (.sclfac 3 1 2 2 true) ∧
  decode 0x84000000 = .ok (.assign 0) ∧
  decode 0xA8000001 = .ok (.clublend 1) ∧
  decode 0xC7C00001 = .ok (.cfgdone 15 1) ∧
  decode 0xC8000100 = .ok (.fswait true 0)

/-- An illegal word (30 R120): one that matches no row of R117, or matches SCLFAC or CHRDIM with the reserved value 3. It
sets bit 0 of FAULT and the fault record, SEQ has gone up, and nothing else changes. -/
def Obligations.IllegalWordRaisesIllcmd : Prop :=
  ∀ (s : State) (bits : Word),
    (∀ op : Op, bits &&& op.maskWord = op.matchWord →
      (op = .sclfac ∨ op = .chrdim) ∧ bits.extractLsb' 0 2 = 3#2) →
    acceptWord bits s = .next (commandFault { s with seq := s.seq + 1 } 0b000001 1)

/-- A step runs the decoded command (30 R110): on acceptance of a word SEQ goes up, the word is decoded, and the step is
exec of the instruction, or ILLCMD. Whose turn it is and the list of host accesses are the model's own fields (log
entries 2 and 3). -/
def Obligations.StepRunsDecodedCommand : Prop :=
  ∀ (s : State) (bits : Word) (rest : List HostOp),
    HostNext s (.busWrite 0x008#12 bits) rest → s.wait = .idle →
    (∀ i, decode bits = .ok i → step s = exec i { s.taken rest with seq := s.seq + 1 }) ∧
    ((∀ i, decode bits ≠ .ok i) →
      step s = .next (commandFault { s.taken rest with seq := s.seq + 1 } 0b000001 1))

/-- The hold of the host port (20 R96): while a command waits a write or a command word does not take effect, and a read
is not held. Lists of accesses and turns are the model's own (log entries 2 and 3). -/
def Obligations.HeldHostAccess : Prop :=
  ∀ (s : State) (op : HostOp) (rest : List HostOp),
    HostNext s op rest → s.wait ≠ .idle →
    (∀ addr v, op = .busWrite addr v → step s = .next s.turned) ∧
    (∀ addr, op = .busRead addr →
      ∃ t, step s = .next t ∧ t.hostOps = rest ∧ t.wait = s.wait ∧ t.readData = some ((memRead s addr).getD 0))

/-- What the registers the host cannot write show (10 R22 to R25, R27 to R35, R38 to R40, R48, R51 to R54), and MemRead by
the bus (20 R84): the register's value and no change of state, or 0 and BADADDR at a misaligned or unmapped offset and
at CMD. The value received is the field readData (log entry 5). -/
def Obligations.BusReadReturnsRegister : Prop :=
  (∀ s : State,
    (∀ entry ∈ [(0x000#12, RegName.id), (0x004#12, .hwcfg), (0x00C#12, .status), (0x010#12, .flags), (0x014#12, .fault),
        (0x018#12, .faultInfo), (0x020#12, .seq), (0x024#12, .cfgDone), (0x028#12, .layerSel), (0x02C#12, .layerSelAct),
        (0x030#12, .portMux), (0x034#12, .portMuxAct), (0x038#12, .mixOwner)],
      memRead s entry.1 = some (readReg s entry.2) ∧ ∀ v, memWrite s entry.1 v = none) ∧
    memRead s 0x01C#12 = some (readReg s .log) ∧
    readReg s .id = 0x53464301 ∧
    readReg s .hwcfg =
      0#20 ++ BitVec.ofBool s.profile.sharedScaler ++ BitVec.ofBool s.profile.avgCap ++
        BitVec.ofBool s.profile.prescaleCap ++ BitVec.ofBool s.profile.sharedLatch ++
        BitVec.ofNat 4 s.profile.nwin ++ BitVec.ofNat 4 s.profile.nport ∧
    ((readReg s .status).getLsbD 0 = decide (s.wait ≠ .idle) ∧
      (readReg s .status).extractLsb' 1 2 =
        (match s.wait with
        | .idle => 0 | .waiting .done _ _ => 1 | .waiting .pmux _ _ => 2 | .waiting .dspHold _ _ => 3) ∧
      (readReg s .status).extractLsb' 3 2 =
        (match s.wait with
        | .idle => 0 | .waiting .pmux _ _ => 0 | .waiting .done q _ => BitVec.ofNat 2 q
        | .waiting .dspHold q _ => BitVec.ofNat 2 q) ∧
      (readReg s .status).getLsbD 5 = decide (s.fault ≠ 0) ∧ (readReg s .status).getLsbD 6 = decide (s.log ≠ 0) ∧
      (readReg s .status).extractLsb' 7 25 = 0 ∧ readReg (State.resetOf s.profile) .status = 0) ∧
    readReg s .flags =
      0#27 ++ BitVec.ofBool s.flags.cal ++ BitVec.ofBool s.flags.avg4 ++ BitVec.ofBool s.flags.avg2 ++
        BitVec.ofBool s.flags.gt4 ++ BitVec.ofBool s.flags.gt2 ∧
    readReg s .fault = 0#26 ++ s.fault ∧ readReg s .faultInfo = s.faultInfo ∧
    readReg s .log = 0#29 ++ s.log ∧ readReg s .seq = s.seq ∧
    readReg s .cfgDone = 0#16 ++ BitVec.ofBool s.glbEn ++ 0#11 ++ s.pend ∧
    (∀ l < 8,
      (readReg s .layerSel).extractLsb' (4 * l) 4 = (if l < s.profile.nlayer then getAt s.layerSel l else 0) ∧
      (readReg s .layerSelAct).extractLsb' (4 * l) 4 = (if l < s.profile.nlayer then getAt s.layerSelAct l else 0) ∧
      (readReg s .portMux).extractLsb' (4 * l) 4 = (if l < s.profile.nport then getAt s.portMux l else 0) ∧
      (readReg s .portMuxAct).extractLsb' (4 * l) 4 = (if l < s.profile.nport then getAt s.portMuxAct l else 0) ∧
      (readReg s .mixOwner).extractLsb' (4 * l) 4 =
        (if l < s.profile.nmixer then BitVec.ofBool (s.slot l).valid ++ 0#1 ++ (s.slot l).owner else 0)) ∧
    (let shown (f : BlendReg → RegName) : BlendWords :=
        ⟨readReg s (f .srcColor), readReg s (f .dstColor), readReg s (f .srcAlpha), readReg s (f .dstAlpha)⟩
     shown .bw = s.bw ∧
      ∀ i, shown (.mix i false) = (s.slot i).words ∧ shown (.mix i true) = (s.slot i).act ∧
        shown (.clu i false) = (s.win i).clu ∧ shown (.clu i true) = (s.win i).cluAct) ∧
    (∀ w, (⟨readReg s (.window w (.sclAct .ctrl)), readReg s (.window w (.sclAct .yrgbX)),
      readReg s (.window w (.sclAct .yrgbY)), readReg s (.window w (.sclAct .cbcrX)),
      readReg s (.window w (.sclAct .cbcrY))⟩ : ScalerRegs) = (s.win w).sclAct) ∧
    ∀ p,
      readReg s (.port p .ctrl) =
        0#27 ++ BitVec.ofBool (s.port p).rangeChg ++ BitVec.ofBool (s.port p).lselChg ++
          BitVec.ofBool (s.port p).dspHold ++ BitVec.ofBool (s.port p).run ++ BitVec.ofBool (s.port p).stby ∧
      readReg s (.port p .vcnt) = 0#16 ++ (s.port p).vcnt ∧
      readReg s (.port p .winMask) = 0#24 ++ (s.port p).winMask ∧
      readReg s (.port p .layers) = 0#20 ++ (s.port p).start ++ (s.port p).wcnt ++ (s.port p).nrLayers) ∧
  ∀ (s : State) (addr : Offset) (rest : List HostOp),
    HostNext s (.busRead addr) rest →
    (∀ name, regAt s.profile addr = some name → name ≠ .cmd →
      step s = .next { s.taken rest with readData := some (readReg s name) }) ∧
    (addr.toNat % 4 ≠ 0 ∨ regAt s.profile addr = none ∨ regAt s.profile addr = some .cmd →
      step s = .next (faultedWith { s.taken rest with readData := some 0 } 0b001000 4))

/-- With no command waiting, a bus write to an RW register or to LOG is MemWrite and nothing else; to a misaligned or
unmapped offset or an RO register other than CMD it raises BADADDR, without a SEQ part in FAULTINFO, and nothing else
changes. -/
def Obligations.BusWriteStoresOrFaults : Prop :=
  ∀ (s : State) (addr : Offset) (v : Word) (rest : List HostOp),
    HostNext s (.busWrite addr v) rest → s.wait = .idle →
    (∀ name, regAt s.profile addr = some name → (accessOf name = .rw ∨ accessOf name = .w1c) →
      ∃ t, memWrite (s.taken rest) addr v = some t ∧ step s = .next t) ∧
    (addr.toNat % 4 ≠ 0 ∨ regAt s.profile addr = none ∨
        (∃ name, regAt s.profile addr = some name ∧ accessOf name = .ro) →
      step s = .next (faultedWith (s.taken rest) 0b001000 4))

/-- The address map (20 R81): the table's columns offset and access are offsetOf and accessOf, a group index out of its
range is unmapped, and an offset that is no register's is unmapped. -/
def Obligations.AddressMapIsTheTable : Prop :=
  ∀ (s : State) (addr : Offset) (name : RegName), s.profile.WellFormed →
    (regAt s.profile addr = some name ↔ inMap s.profile name = true ∧ addr.toNat = offsetOf name) ∧
    (regAt s.profile addr = some name →
      ((memRead s addr).isSome ↔ accessOf name ≠ .wo) ∧
      (∀ v, (memWrite s addr v).isSome ↔ accessOf name = .rw ∨ accessOf name = .w1c)) ∧
    (regAt s.profile addr = none → memRead s addr = none ∧ ∀ v, memWrite s addr v = none)

/-- What the writable registers show (10 R20, R36, R37, R43 to R47, R49, R50), and MemWrite (20 R85): an RW register takes
the writable bits of the value and keeps its other bits, LOG clears the bits written as 1, every other offset reads as
before (STATUS shows LOG), and every other write is refused. -/
def Obligations.WriteTakesWritableBits : Prop :=
  (∀ s : State,
    (∀ i, readReg s (.x i) = s.reg i) ∧
    readReg s .acfg =
      0#8 ++ s.acfg.dstGlb ++ s.acfg.srcGlb ++ 0#4 ++ BitVec.ofBool s.acfg.dstPixEn ++ BitVec.ofBool s.acfg.srcPixEn ++
        BitVec.ofBool s.acfg.dstPremulti ++ BitVec.ofBool s.acfg.srcPremulti ∧
    (∀ p, readReg s (.port p .timing) = (s.port p).vtotal ++ (s.port p).htotal ∧
      readReg s (.port p .pclk) = (s.port p).pclk) ∧
    ∀ w,
      let win := s.win w
      let shared := s.profile.sharedScaler
      readReg s (.window w .ctrl) =
        0#14 ++ (match classOf s.profile w with | .cluster => 0#2 | .esmart => 1#2 | .smart => 2#2) ++
          win.zpos ++ win.vpMask ++ 0#3 ++ BitVec.ofBool win.en ∧
      readReg s (.window w .alpha) =
        0#22 ++ BitVec.ofBool win.premulti ++ BitVec.ofBool win.pixAlpha ++ win.glbAlpha ∧
      readReg s (.window w .sub) =
        (if classOf s.profile w = .cluster then
          0#8 ++ win.sub.glbAlpha ++ 0#6 ++ BitVec.ofBool win.sub.premulti ++ BitVec.ofBool win.sub.pixAlpha ++ 0#6 ++
            BitVec.ofBool win.sub.below ++ BitVec.ofBool win.sub.en
        else 0) ∧
      readReg s (.window w (.scl .ctrl)) = win.scl.ctrl &&& (if shared then 0x000030FF else 0x00003FFF) ∧
      readReg s (.window w (.scl .yrgbX)) = win.scl.yrgbX ∧ readReg s (.window w (.scl .yrgbY)) = win.scl.yrgbY ∧
      readReg s (.window w (.scl .cbcrX)) = (if shared then 0 else win.scl.cbcrX) ∧
      readReg s (.window w (.scl .cbcrY)) = (if shared then 0 else win.scl.cbcrY)) ∧
  ∀ (s : State) (addr : Offset) (v : Word), s.profile.WellFormed →
    (∀ name, regAt s.profile addr = some name → accessOf name = .rw →
      ∃ t, memWrite s addr v = some t ∧ SameHidden s t ∧
        memRead t addr = some ((v &&& writableBits s.profile name) |||
          (readReg s name &&& ~~~writableBits s.profile name)) ∧
        ∀ other, other ≠ addr → memRead t other = memRead s other) ∧
    (regAt s.profile addr = some .log →
      ∃ t, memWrite s addr v = some t ∧ SameHidden s t ∧
        memRead t addr = some (readReg s .log &&& ~~~v) ∧
        ∀ other, other ≠ addr → other ≠ 0x00C#12 → memRead t other = memRead s other) ∧
    (addr.toNat % 4 ≠ 0 ∨ regAt s.profile addr = none ∨ addr = 0x008#12 ∨
        (∃ name, regAt s.profile addr = some name ∧ accessOf name = .ro) →
      memWrite s addr v = none)

/-- The word 0 and no other decodes to NOP, and NOP answers the state it is given, in which acceptance has counted the
word in SEQ. -/
def Obligations.NopDoesNothing : Prop :=
  (∀ bits : Word, decode bits = .ok .nop ↔ bits = 0) ∧ ∀ s : State, exec .nop s = .next s

/-- The word of LI decodes to it; x[rd] gets the 16-bit constant in bits 15:0 and 0 in bits 31:16, and nothing else
changes. -/
def Obligations.LiLoadsConstant : Prop :=
  ∀ (s : State) (rd : RegNum) (imm : BitVec 16),
    decode (0x01#6 ++ rd ++ 0#6 ++ imm) = .ok (.li rd imm) ∧
    ∃ t, exec (.li rd imm) s = .next t ∧ WritesOnly s t rd (0#16 ++ imm)

/-- The word of LIH decodes to it; x[rd] gets the constant in bits 31:16 and keeps bits 15:0, nothing else changes; LI
then LIH leaves both halves, LIH then LI clears the upper half. -/
def Obligations.LihReplacesUpperHalf : Prop :=
  ∀ (s : State) (rd : RegNum) (lo hi : BitVec 16),
    decode (0x02#6 ++ rd ++ 0#6 ++ hi) = .ok (.lih rd hi) ∧
    (∃ t, exec (.lih rd hi) s = .next t ∧ WritesOnly s t rd (hi ++ (s.reg rd).extractLsb' 0 16)) ∧
    (∃ t u, exec (.li rd lo) s = .next t ∧ exec (.lih rd hi) t = .next u ∧ WritesOnly s u rd (hi ++ lo)) ∧
    (∃ t u, exec (.lih rd hi) s = .next t ∧ exec (.li rd lo) t = .next u ∧ WritesOnly s u rd (0#16 ++ lo))

/-- The word of LDR decodes to it; at a mapped offset other than CMD x[rd] gets the register's value and nothing else
changes; at a misaligned or unmapped offset and at CMD it raises BADADDR and changes nothing else. -/
def Obligations.LdrReadsRegister : Prop :=
  ∀ (s : State) (rd : RegNum) (addr : Offset),
    decode (0x03#6 ++ rd ++ 0#10 ++ addr) = .ok (.ldr rd addr) ∧
    (∀ name, regAt s.profile addr = some name → name ≠ .cmd →
      ∃ t, exec (.ldr rd addr) s = .next t ∧ memRead s addr = some (readReg s name) ∧
        WritesOnly s t rd (readReg s name)) ∧
    (addr.toNat % 4 ≠ 0 ∨ regAt s.profile addr = none ∨ addr = 0x008#12 →
      exec (.ldr rd addr) s = .next (commandFault s 0b001000 4))

/-- The word of STR decodes to it; at an RW register and at LOG the state after it is that of MemWrite of x[rs]; at a
misaligned or unmapped offset, an RO register or CMD it raises BADADDR and nothing is written. -/
def Obligations.StrWritesRegister : Prop :=
  ∀ (s : State) (rs : RegNum) (addr : Offset),
    decode (0x04#6 ++ rs ++ 0#10 ++ addr) = .ok (.str rs addr) ∧
    (∀ name, regAt s.profile addr = some name → (accessOf name = .rw ∨ name = .log) →
      ∃ t, exec (.str rs addr) s = .next t ∧ memWrite s addr (s.reg rs) = some t) ∧
    (addr.toNat % 4 ≠ 0 ∨ regAt s.profile addr = none ∨ addr = 0x008#12 ∨
        (∃ name, regAt s.profile addr = some name ∧ accessOf name = .ro) →
      exec (.str rs addr) s = .next (commandFault s 0b001000 4))

/-- The word of SCLMODE decodes to it; x[rd] gets 0 for equal dimensions, 1 for a smaller and 2 for a larger source, over
the whole 32-bit values, and nothing else changes: no flag, no fault. -/
def Obligations.SclmodeSelectsMode : Prop :=
  ∀ (s : State) (rd rs1 rs2 : RegNum),
    decode (0x10#6 ++ rd ++ rs1 ++ rs2 ++ 0#14) = .ok (.sclmode rd rs1 rs2) ∧
    ∃ t, exec (.sclmode rd rs1 rs2) s = .next t ∧
      WritesOnly s t rd
        (if s.reg rs1 = s.reg rs2 then 0 else if (s.reg rs1).toNat < (s.reg rs2).toNat then 1 else 2)

/-- The word of PRESCL decodes to it; with both dimensions in 1 to 65535 x[rd] gets the source shifted right by 2, 1 or 0
as the thresholds and PRESCALE_CAP say, FLAGS[3:0] the one flag engaged (averaging only with AVG_CAP), FLAGS[4] stays,
nothing else changes; otherwise OPERAND and no other effect. -/
def Obligations.PresclDecimates : Prop :=
  ∀ (s : State) (rd rs1 rs2 : RegNum) (avg : Bool),
    let src := (s.reg rs1).toNat
    let dst := (s.reg rs2).toNat
    let shift := if s.profile.prescaleCap = false then 0
      else if 4 * dst ≤ src then 2 else if 2 * dst ≤ src then 1 else 0
    let useAvg := avg && s.profile.avgCap
    decode (0x11#6 ++ rd ++ rs1 ++ rs2 ++ 0#13 ++ BitVec.ofBool avg) = .ok (.prescl rd rs1 rs2 avg) ∧
    (1 ≤ src ∧ src ≤ 65535 ∧ 1 ≤ dst ∧ dst ≤ 65535 →
      ∃ t, exec (.prescl rd rs1 rs2 avg) s = .next t ∧
        (t.reg rd).toNat = src / 2 ^ shift ∧ (∀ r, r ≠ rd → t.reg r = s.reg r) ∧
        t.flags = { gt2 := shift == 1 && !useAvg, gt4 := shift == 2 && !useAvg,
                    avg2 := shift == 1 && useAvg, avg4 := shift == 2 && useAvg, cal := s.flags.cal } ∧
        { t with x := s.x, flags := s.flags } = s) ∧
    (¬ (1 ≤ src ∧ src ≤ 65535 ∧ 1 ≤ dst ∧ dst ≤ 65535) →
      exec (.prescl rd rs1 rs2 avg) s = .next (commandFault s 0b000010 2))

/-- SCLFAC in the closed form that 41 R184 derives from the loop of R180 and the edge case of R183; that the register
holds the whole value is R186. R184 and R186 are the spec's own inferences. -/
def Obligations.SclfacIsClosedForm : Prop :=
  ∀ (s : State) (rd rs1 rs2 : RegNum) (mode : BitVec 2) (bil : Bool),
    let src := (s.reg rs1).toNat
    let dst := (s.reg rs2).toNat
    let inRange := 1 ≤ src ∧ src ≤ 65535 ∧ 1 ≤ dst ∧ dst ≤ 65535
    let one := if src = 1 ∨ dst = 1 then 1 else 0
    let n := (src + one - 1) * 2 ^ (if mode = 2 ∧ bil = true then 12 else 16)
    let d := dst + one - 1
    (mode ≠ 3 → decode (0x12#6 ++ rd ++ rs1 ++ rs2 ++ 0#11 ++ BitVec.ofBool bil ++ mode) =
      .ok (.sclfac rd rs1 rs2 mode bil)) ∧
    (inRange → mode = 1 ∨ mode = 2 →
      ∃ t, exec (.sclfac rd rs1 rs2 mode bil) s = .next t ∧
        (t.reg rd).toNat = (n - 1) / d ∧ (∀ r, r ≠ rd → t.reg r = s.reg r) ∧
        t.flags = { s.flags with cal := decide (n % d = 0) } ∧ { t with x := s.x, flags := s.flags } = s) ∧
    (inRange → mode = 0 →
      ∃ t, exec (.sclfac rd rs1 rs2 mode bil) s = .next t ∧
        t.reg rd = 0 ∧ (∀ r, r ≠ rd → t.reg r = s.reg r) ∧
        t.flags = { s.flags with cal := false } ∧ { t with x := s.x, flags := s.flags } = s) ∧
    (mode = 3 → exec (.sclfac rd rs1 rs2 mode bil) s = .next (commandFault s 0b000001 1)) ∧
    (mode ≠ 3 → ¬ inRange → exec (.sclfac rd rs1 rs2 mode bil) s = .next (commandFault s 0b000010 2))

/-- The no-overshoot property (41 R185, the source's first testable property, an inference of the spec from R184): f*(d-1)
>> k stays below s-1; f is the largest such factor (R184) and fits the bound of R186. -/
def Obligations.FactorNeverOvershoots : Prop :=
  ∀ (s : State) (rd rs1 rs2 : RegNum) (mode : BitVec 2) (bil : Bool),
    let src := (s.reg rs1).toNat
    let dst := (s.reg rs2).toNat
    let k := if mode = 2 ∧ bil = true then 12 else 16
    2 ≤ src → src ≤ 65535 → 2 ≤ dst → dst ≤ 65535 → mode = 1 ∨ mode = 2 →
    ∃ t, exec (.sclfac rd rs1 rs2 mode bil) s = .next t ∧
      ((t.reg rd).toNat * (dst - 1)) / 2 ^ k < src - 1 ∧
      src - 1 ≤ (((t.reg rd).toNat + 1) * (dst - 1)) / 2 ^ k ∧
      (t.reg rd).toNat ≤ 0xFFFEFFFF

/-- The word of SCLAUTO decodes to it; with both dimensions in range it answers the next state that SCLFAC answers for
mode None, Up or Down as the source equals, is below or is above the destination, with the same bil; otherwise OPERAND
and no other effect. -/
def Obligations.SclautoIsModeThenFactor : Prop :=
  ∀ (s : State) (rd rs1 rs2 : RegNum) (bil : Bool),
    let src := (s.reg rs1).toNat
    let dst := (s.reg rs2).toNat
    let mode : BitVec 2 := if src = dst then 0 else if src < dst then 1 else 2
    decode (0x13#6 ++ rd ++ rs1 ++ rs2 ++ 0#11 ++ BitVec.ofBool bil ++ 0#2) = .ok (.sclauto rd rs1 rs2 bil) ∧
    (1 ≤ src ∧ src ≤ 65535 ∧ 1 ≤ dst ∧ dst ≤ 65535 →
      ∃ t, exec (.sclauto rd rs1 rs2 bil) s = .next t ∧ exec (.sclfac rd rs1 rs2 mode bil) s = .next t) ∧
    (¬ (1 ≤ src ∧ src ≤ 65535 ∧ 1 ≤ dst ∧ dst ≤ 65535) →
      exec (.sclauto rd rs1 rs2 bil) s = .next (commandFault s 0b000010 2))

/-- For s below 3 the word of CHRDIM decodes to it and x[rd] gets x[rs1] divided by 2 to the s, nothing else changes; s =
3 raises ILLCMD and changes nothing else. -/
def Obligations.ChrdimShiftsDimension : Prop :=
  ∀ (s : State) (rd rs1 : RegNum) (sub : BitVec 2),
    (sub ≠ 3 →
      decode (0x14#6 ++ rd ++ rs1 ++ 0#4 ++ 0#12 ++ sub) = .ok (.chrdim rd rs1 sub) ∧
      ∃ t, exec (.chrdim rd rs1 sub) s = .next t ∧
        WritesOnly s t rd (BitVec.ofNat 32 ((s.reg rs1).toNat / 2 ^ sub.toNat))) ∧
    (sub = 3 → exec (.chrdim rd rs1 sub) s = .next (commandFault s 0b000001 1))

/-- A port command with an index at or above NPORT, a window command with an index at or above NWIN, and CLUBLEND of a
window that is no cluster set bit 2 of FAULT with code 3 and change nothing else. -/
def Obligations.BadIndexRaised : Prop :=
  ∀ (s : State) (idx : Index) (r : RegNum) (c : Bool),
    (s.profile.nport ≤ idx.toNat →
      ∀ i ∈ [Instr.assign idx, .blend idx, .pendbits r idx, .cfgdone r idx, .fswait c idx, .standby idx, .enable idx],
        exec i s = .next (commandFault s 0b000100 3)) ∧
    (s.profile.nwin ≤ idx.toNat →
      ∀ i ∈ [Instr.windis idx, .clublend idx], exec i s = .next (commandFault s 0b000100 3)) ∧
    (idx.toNat < s.profile.nwin → classOf s.profile idx.toNat ≠ .cluster →
      exec (.clublend idx) s = .next (commandFault s 0b000100 3))

/-- For every word and state, accepting the word either gives the old state with SEQ one higher, exactly one of the six
fault bits set (it may be set already) and FAULTINFO filled with that fault's code if it was the first, or a next
state with SEQ one higher and FAULT and FAULTINFO as before. -/
def Obligations.FaultChangesOnlyTheRecord : Prop :=
  ∀ (bits : Word) (s : State),
    (∃ k < 6, acceptWord bits s =
      .next (commandFault { s with seq := s.seq + 1 } (1#6 <<< k) (BitVec.ofNat 8 (k + 1)))) ∨
    (∃ t, acceptWord bits s = .next t ∧
      t.fault = s.fault ∧ t.faultInfo = s.faultInfo ∧ t.seq = s.seq + 1)

/-- In every step of every agent other than reset, a bit of FAULT that is 1 stays 1, and FAULTINFO once filled keeps its
value. -/
def Obligations.FaultRecordIsSticky : Prop :=
  ∀ s t : State, step s = .next t → nextAgent s ≠ .reset →
    s.fault &&& t.fault = s.fault ∧ (s.faultInfo ≠ 0 → t.faultInfo = s.faultInfo)

/-- The word of WINDIS decodes to it; for a window that exists its EN becomes 0, for a cluster SUB_EN too, and every other
field, window and register stays; an index out of range raises BADINDEX. -/
def Obligations.WindisDisablesWindow : Prop :=
  ∀ (s : State) (w : Index), s.profile.WellFormed →
    decode (0x20#6 ++ 0#18 ++ w) = .ok (.windis w) ∧
    (w.toNat < s.profile.nwin →
      ∃ t, exec (.windis w) s = .next t ∧
        WindowOnly s t w.toNat
          { s.win w.toNat with
            en := false
            sub := { (s.win w.toNat).sub with
              en := if classOf s.profile w.toNat = .cluster then false else (s.win w.toNat).sub.en } }) ∧
    (s.profile.nwin ≤ w.toNat → exec (.windis w) s = .next (commandFault s 0b000100 3))

/-- For a port that exists, with every enabled window routed to one port that exists, ASSIGN P completes; a window enabled
for P that was not in P's mask is in P's and in no other port's afterwards, and every other mask bit is as it was. -/
def Obligations.AssignMovesWindows : Prop :=
  ∀ (s : State) (p : Index), s.profile.WellFormed → p.toNat < s.profile.nport → VpMasksOneHot s →
    ∃ t, exec (.assign p) s = .next t ∧
      ∀ q < s.profile.nport, ∀ w < 8,
        (t.port q).winMask.getLsbD w =
          if claimed s p.toNat w then decide (q = p.toNat) else (s.port q).winMask.getLsbD w

/-- ASSIGN step 2 and step 5 (42 R212, R215): counts and starts from the masks as step 1 left them, RANGE_CHG, and the
port mux, whose formula the spec marks as general knowledge. The masks are assumed disjoint (10 R41), which
AssignmentStaysSound keeps. -/
def Obligations.AssignCountsRanges : Prop :=
  ∀ (s : State) (p : Index), s.profile.WellFormed → p.toNat < s.profile.nport → VpMasksOneHot s → MasksSound s →
    ∃ t, exec (.assign p) s = .next t ∧
      ∀ q < s.profile.nport,
        (t.port q).wcnt.toNat = popcount (t.port q).winMask ∧
        (t.port q).start.toNat = ((List.range q).map fun r => popcount (t.port r).winMask).sum ∧
        (getAt t.portMux q).toNat =
          (if (t.port q).wcnt.toNat = 0 then 8 else (t.port q).start.toNat + (t.port q).wcnt.toNat - 1) ∧
        ((t.port q).rangeChg = true ↔
          q ≠ p.toNat ∧ ((s.port q).rangeChg = true ∨ (t.port q).start ≠ (s.port q).start ∨
            ∃ w < 8, claimed s p.toNat w = true ∧ (s.port q).winMask.getLsbD w = true))

/-- The window exclusivity of 42 R217, an inference of the spec from R211 to R214: after ASSIGN the active windows sit in
the order of R213 on the layers from START up, and the selector is a permutation. AssignmentStaysSound keeps the
hypothesis. -/
def Obligations.AssignPlacesSortedWindows : Prop :=
  ∀ (s : State) (p : Index), AssignmentSound s → p.toNat < s.profile.nport → VpMasksOneHot s →
    ∃ (t : State) (act : List Nat), exec (.assign p) s = .next t ∧
      (∀ w, w ∈ act ↔ w < s.profile.nwin ∧ (s.win w).en = true ∧ (s.win w).vpMask = 1#4 <<< p.toNat) ∧
      act.Pairwise (fun v w =>
        (s.win v).zpos.toNat < (s.win w).zpos.toNat ∨ ((s.win v).zpos = (s.win w).zpos ∧ v < w)) ∧
      (t.port p.toNat).nrLayers.toNat = act.length ∧ act.length ≤ (t.port p.toNat).wcnt.toNat ∧
      (∀ z w, act[z]? = some w → getAt t.layerSel ((t.port p.toNat).start.toNat + z) = selCode s.profile w) ∧
      SelectorSound t.profile t.layerSel

/-- ASSIGN P sets LSEL_CHG of P when the staged selector changed and never clears it; NRLAYERS and LSEL_CHG of the other
ports stay, and so do standby, run, dsp-hold, timing, clock and line count of every port and every register other than
the masks, the layers, RANGE_CHG, the staged selector and the staged port mux. -/
def Obligations.AssignFrame : Prop :=
  ∀ (s : State) (p : Index), s.profile.WellFormed → p.toNat < s.profile.nport → VpMasksOneHot s →
    decode (0x21#6 ++ 0#18 ++ p) = .ok (.assign p) ∧
    ∃ t, exec (.assign p) s = .next t ∧
      (t.port p.toNat).lselChg = ((s.port p.toNat).lselChg || decide (t.layerSel ≠ s.layerSel)) ∧
      (∀ q, q ≠ p.toNat →
        (t.port q).lselChg = (s.port q).lselChg ∧ (t.port q).nrLayers = (s.port q).nrLayers) ∧
      (∀ q < s.profile.nport,
        { t.port q with
          lselChg := (s.port q).lselChg, rangeChg := (s.port q).rangeChg, winMask := (s.port q).winMask
          nrLayers := (s.port q).nrLayers, wcnt := (s.port q).wcnt, start := (s.port q).start } = s.port q) ∧
      (∀ q, s.profile.nport ≤ q → t.port q = s.port q) ∧
      { t with ports := s.ports, layerSel := s.layerSel, portMux := s.portMux } = s

/-- For a port that exists, ASSIGN with an enabled window whose VPMASK is not one bit of a port that exists, and BLEND of
a port with RANGE_CHG set, set bit 4 of FAULT with code 5 and change nothing else. -/
def Obligations.BadConfigurationRaised : Prop :=
  ∀ (s : State) (p : Index), s.profile.WellFormed → p.toNat < s.profile.nport →
    (¬ VpMasksOneHot s → exec (.assign p) s = .next (commandFault s 0b010000 5)) ∧
    ((s.port p.toNat).rangeChg = true → exec (.blend p) s = .next (commandFault s 0b010000 5))

/-- From a state that meets the assignment invariant, if P claims no window, then every window enabled for another port q
that sits on a layer of q's range is on that layer afterwards. -/
def Obligations.AssignKeepsOtherPortsLayers : Prop :=
  ∀ (s : State) (p : Index), AssignmentSound s → p.toNat < s.profile.nport → VpMasksOneHot s →
    (∀ w < s.profile.nwin, claimed s p.toNat w = false) →
    ∃ t, exec (.assign p) s = .next t ∧
      ∀ q < s.profile.nport, q ≠ p.toNat → ∀ w < s.profile.nwin, ∀ l,
        (s.win w).vpMask = 1#4 <<< q →
        (s.port q).start.toNat ≤ l → l < (s.port q).start.toNat + (s.port q).wcnt.toNat →
        getAt s.layerSel l = selCode s.profile w → getAt t.layerSel l = selCode s.profile w

/-- The word of PMUXWAIT decodes to it; with the staged and the active port mux equal it changes nothing, otherwise it
enters the wait of kind PMUX and changes nothing else. -/
def Obligations.PmuxwaitEndsOrWaits : Prop :=
  decode (0x22#6 ++ 0#26) = .ok .pmuxwait ∧
  ∀ s : State,
    (s.portMuxAct = s.portMux → exec .pmuxwait s = .next s) ∧
    (s.portMuxAct ≠ s.portMux → exec .pmuxwait s = .next { s with wait := .waiting .pmux 0 .pmuxwait })

/-- The derive function (43 R242, R243) in the layout of 10 R55, field by field; the spec marks its body and the layout as
general knowledge, not in its source (log entry 20). -/
def Obligations.DeriveFillsTheFields : Prop :=
  ∀ (a : AlphaConfig) (swap : Bool),
    let words := deriveWords a swap
    let mode : BitVec 2 := if a.srcPixEn = false then 0 else if a.srcGlb = 0xFF then 1 else 2
    (words.srcColor.getLsbD 0 = (mode != 2 && !a.srcPremulti) ∧
      words.srcColor.extractLsb' 1 1 = 0 ∧
      words.srcColor.extractLsb' 2 2 = mode ∧ words.srcColor.extractLsb' 4 1 = 0 ∧
      words.srcColor.extractLsb' 5 3 = (if mode = 1 then 1 else 5) ∧ words.srcColor.getLsbD 8 = true ∧
      words.srcColor.getLsbD 9 = swap ∧ words.srcColor.extractLsb' 10 6 = 0 ∧
      words.srcColor.extractLsb' 16 8 = a.srcGlb ∧ words.srcColor.extractLsb' 24 8 = 0) ∧
    (words.dstColor.getLsbD 0 = !a.dstPremulti ∧
      words.dstColor.extractLsb' 1 4 = 0 ∧ words.dstColor.extractLsb' 5 3 = 3 ∧
      words.dstColor.extractLsb' 8 8 = 0 ∧
      words.dstColor.extractLsb' 16 8 = a.dstGlb ∧ words.dstColor.extractLsb' 24 8 = 0) ∧
    (words.srcAlpha.extractLsb' 0 2 = 0 ∧ words.srcAlpha.extractLsb' 2 2 = mode ∧
      words.srcAlpha.extractLsb' 4 1 = 0 ∧ words.srcAlpha.extractLsb' 5 3 = 1 ∧
      words.srcAlpha.extractLsb' 8 24 = 0) ∧
    (words.dstAlpha.extractLsb' 0 2 = 0 ∧
      words.dstAlpha.extractLsb' 2 2 = (if a.dstPixEn = true ∧ a.dstGlb = 0xFF then 1 else 2) ∧
      words.dstAlpha.extractLsb' 4 1 = 1 ∧ words.dstAlpha.extractLsb' 5 3 = 3 ∧
      words.dstAlpha.extractLsb' 8 24 = 0)

/-- The word of DERIVE decodes to it; the four BW registers get the words derived from the record in ACFG without swap,
ACFG and everything else stay, and a second DERIVE leaves the same words. -/
def Obligations.DeriveWritesResult : Prop :=
  decode 0xA0000000 = .ok .derive ∧
  ∀ s : State,
    ∃ t, exec .derive s = .next t ∧ t.bw = deriveWords s.acfg false ∧ { t with bw := s.bw } = s ∧
      exec .derive t = .next t

/-- From a state that meets the assignment invariant, BLEND P of a port without RANGE_CHG completes: every slot of P's
range and every slot above all ranges becomes valid and owned by P, those above P's top layer get the pass-through
words, slots of other ports' ranges and all active words stay, and nothing but slots changes; the range is sound. -/
def Obligations.BlendOwnsItsSlots : Prop :=
  ∀ (s : State) (p : Index), AssignmentSound s → p.toNat < s.profile.nport → (s.port p.toNat).rangeChg = false →
    let base := (s.port p.toNat).start.toNat
    let n := (s.port p.toNat).nrLayers.toNat
    let c := (s.port p.toNat).wcnt.toNat
    let total := ((List.range s.profile.nport).map fun q => (s.port q).wcnt.toNat).sum
    n ≤ c ∧ base + c ≤ total ∧ total ≤ s.profile.nmixer ∧
    ∃ t, exec (.blend p) s = .next t ∧
      (∀ m < s.profile.nmixer, (base ≤ m ∧ m < base + c) ∨ total ≤ m →
        (t.slot m).valid = true ∧ (t.slot m).owner.toNat = p.toNat ∧ (t.slot m).act = (s.slot m).act) ∧
      (∀ m < s.profile.nmixer, (base + n ≤ m ∧ m < base + c) ∨ total ≤ m →
        (t.slot m).words = ⟨0x00FF01A0, 0x00FF0060, 0x00000020, 0x00000074⟩) ∧
      (∀ m, ¬ ((base ≤ m ∧ m < base + c) ∨ (total ≤ m ∧ m < s.profile.nmixer)) → t.slot m = s.slot m) ∧
      { t with slots := s.slots } = s

/-- BLEND writes the words derived from the record of each stage (43 R260 to R267). That dst_pixel_alpha_en is 1 in every
record (R264), the precedence of the cases (R267) and what the derive function gives (R243) are general knowledge of
the spec, not in its source (log entry 20). -/
def Obligations.BlendBuildsStages : Prop :=
  ∀ (s : State) (p : Index), AssignmentSound s → p.toNat < s.profile.nport → (s.port p.toNat).rangeChg = false →
    decode (0x29#6 ++ 0#18 ++ p) = .ok (.blend p) ∧
    ∃ t, exec (.blend p) s = .next t ∧
      ∀ z < (s.port p.toNat).nrLayers.toNat, ∀ w < s.profile.nwin, ∀ b < s.profile.nwin,
        getAt s.layerSel ((s.port p.toNat).start.toNat + z) = selCode s.profile w →
        getAt s.layerSel (s.port p.toNat).start.toNat = selCode s.profile b →
        (t.slot ((s.port p.toNat).start.toNat + z)).words =
          deriveWords
            (if z = 0 then
              { srcPremulti := (s.win w).premulti, dstPremulti := true, srcPixEn := false, dstPixEn := true
                srcGlb := 0xFF, dstGlb := 0xFF }
            else if z = 1 ∧ classOf s.profile b ≠ .cluster ∧ (s.win b).glbAlpha ≠ 0xFF then
              { srcPremulti := (s.win w).premulti, dstPremulti := false, srcPixEn := (s.win w).pixAlpha
                dstPixEn := true, srcGlb := (s.win w).glbAlpha, dstGlb := (s.win b).glbAlpha }
            else if classOf s.profile w = .cluster then
              { srcPremulti := (s.win w).premulti, dstPremulti := true, srcPixEn := true, dstPixEn := true
                srcGlb := 0xFF, dstGlb := 0xFF }
            else
              { srcPremulti := (s.win w).premulti, dstPremulti := true, srcPixEn := (s.win w).pixAlpha
                dstPixEn := true, srcGlb := (s.win w).glbAlpha, dstGlb := 0xFF })
            false

/-- CLUBLEND (43 R275 to R278): the record of each case; the spec marks the three records as general knowledge, not in its
source (log entry 20). -/
def Obligations.ClublendBuildsInnerStage : Prop :=
  ∀ (s : State) (w : Index), s.profile.WellFormed →
    decode (0x2A#6 ++ 0#18 ++ w) = .ok (.clublend w) ∧
    (w.toNat < s.profile.nwin → classOf s.profile w.toNat = .cluster →
      let win := s.win w.toNat
      ∃ t, exec (.clublend w) s = .next t ∧
        WindowOnly s t w.toNat
          { win with
            clu :=
              if win.sub.en = false then
                deriveWords
                  { srcPremulti := false, dstPremulti := false, srcPixEn := false, dstPixEn := true
                    srcGlb := 0x00, dstGlb := win.glbAlpha } false
              else if win.sub.below = false then
                deriveWords
                  { srcPremulti := win.sub.premulti, dstPremulti := false, srcPixEn := win.sub.pixAlpha
                    dstPixEn := true, srcGlb := win.sub.glbAlpha, dstGlb := win.glbAlpha } false
              else
                deriveWords
                  { srcPremulti := win.premulti, dstPremulti := false, srcPixEn := win.pixAlpha
                    dstPixEn := true, srcGlb := win.glbAlpha, dstGlb := win.sub.glbAlpha } true })

/-- The word of PENDBITS decodes to it; for a port that exists, with no pending bit of another port or without a shared
latch, x[rd] becomes 0 and nothing else changes: no wait, no fault. -/
def Obligations.PendbitsWithNothingToCarry : Prop :=
  ∀ (s : State) (rd : RegNum) (p : Index),
    decode (0x30#6 ++ rd ++ 0#14 ++ p) = .ok (.pendbits rd p) ∧
    (p.toNat < s.profile.nport →
      s.profile.sharedLatch = false ∨ s.pend &&& ~~~(1#4 <<< p.toNat) = 0 →
      ∃ t, exec (.pendbits rd p) s = .next t ∧ WritesOnly s t rd 0)

/-- PENDBITS step 3 (44 R290 to R292): a wait in the last eighth of the one other pending port, else its bit at once. That
the count of a stopped port is read as 0 although VP_VCNT may stand at another value is R321, which the model follows
before the formula of R292: its choice (log entry 21). -/
def Obligations.PendbitsWithOneOther : Prop :=
  ∀ (s : State) (rd : RegNum) (p : Index) (o : Nat),
    p.toNat < s.profile.nport → s.profile.sharedLatch = true → o < 4 →
    s.pend &&& ~~~(1#4 <<< p.toNat) = 1#4 <<< o →
    let count := if (s.port o).run = true then (s.port o).vcnt.toNat else 0
    (count ≤ (s.port o).vtotal.toNat * 7 / 8 →
      ∃ t, exec (.pendbits rd p) s = .next t ∧ WritesOnly s t rd (1#32 <<< o)) ∧
    ((s.port o).vtotal.toNat * 7 / 8 < count →
      exec (.pendbits rd p) s = .next { s with wait := .waiting .done o (.pendbits rd p.toNat) })

/-- PENDBITS step 4 (44 R290, R294, R295): TIMING for a zero pixel clock, no wait when both ports are outside their safe
window, else one wait; the choice of the port is general knowledge of the spec (log entry 20), and the count 0 of a
stopped port is R321 before the formula of R294, the choice of the model (log entry 21). -/
def Obligations.PendbitsWithTwoOthers : Prop :=
  ∀ (s : State) (rd : RegNum) (p : Index) (o1 o2 : Nat),
    p.toNat < s.profile.nport → s.profile.sharedLatch = true → o1 < o2 → o2 < 4 →
    s.pend &&& ~~~(1#4 <<< p.toNat) = (1#4 <<< o1) ||| (1#4 <<< o2) →
    let count (q : Nat) : Nat := if (s.port q).run = true then (s.port q).vcnt.toNat else 0
    let left (q : Nat) : Nat :=
      (s.port q).htotal.toNat * ((s.port q).vtotal.toNat - count q) * 1000 / (s.port q).pclk.toNat
    let safe (q : Nat) : Nat :=
      (s.port q).htotal.toNat * (s.port q).vtotal.toNat * 1000 / (s.port q).pclk.toNat / 8
    let clocked := (s.port o1).pclk ≠ 0 ∧ (s.port o2).pclk ≠ 0
    let outside := safe o1 < left o1 ∧ safe o2 < left o2
    (¬ clocked → exec (.pendbits rd p) s = .next (commandFault s 0b100000 6)) ∧
    (clocked → outside →
      ∃ t, exec (.pendbits rd p) s = .next t ∧ WritesOnly s t rd ((1#32 <<< o1) ||| (1#32 <<< o2))) ∧
    (clocked → ¬ outside → left o2 < left o1 →
      exec (.pendbits rd p) s = .next
        { s with wait := .waiting .done (if safe o1 < left o1 - left o2 then o2 else o1) (.pendbits rd p.toNat) }) ∧
    (clocked → ¬ outside → left o1 ≤ left o2 →
      exec (.pendbits rd p) s = .next
        { s with wait := .waiting .done (if safe o2 < left o2 - left o1 then o1 else o2) (.pendbits rd p.toNat) })

/-- The word of CFGDONE decodes to it; for a port that exists and an operand below 2 to the NPORT, a shared latch becomes
the port's bit and the operand's, an independent latch gains the port's bit, GLBEN becomes 1 and nothing else changes;
a larger operand raises OPERAND, a port out of range BADINDEX. -/
def Obligations.CfgdoneCommits : Prop :=
  ∀ (s : State) (rs : RegNum) (p : Index), s.profile.WellFormed →
    decode (0x31#6 ++ rs ++ 0#14 ++ p) = .ok (.cfgdone rs p) ∧
    (p.toNat < s.profile.nport → (s.reg rs).toNat < 2 ^ s.profile.nport → s.profile.sharedLatch = true →
      exec (.cfgdone rs p) s = .next
        { s with pend := (1#4 <<< p.toNat) ||| (s.reg rs).extractLsb' 0 4, glbEn := true }) ∧
    (p.toNat < s.profile.nport → (s.reg rs).toNat < 2 ^ s.profile.nport → s.profile.sharedLatch = false →
      exec (.cfgdone rs p) s = .next { s with pend := s.pend ||| (1#4 <<< p.toNat), glbEn := true }) ∧
    (p.toNat < s.profile.nport → 2 ^ s.profile.nport ≤ (s.reg rs).toNat →
      exec (.cfgdone rs p) s = .next (commandFault s 0b000010 2)) ∧
    (s.profile.nport ≤ p.toNat → exec (.cfgdone rs p) s = .next (commandFault s 0b000100 3))

/-- The word of FSWAIT decodes to it; FSWAIT.C of a port without LSEL_CHG changes nothing; otherwise with the port's
pending bit clear it ends at once, FSWAIT.C clearing LSEL_CHG, and with the bit set it enters the wait of kind DONE
and changes nothing else. -/
def Obligations.FswaitEndsOrWaits : Prop :=
  ∀ (s : State) (c : Bool) (p : Index), s.profile.WellFormed →
    decode (0x32#6 ++ 0#17 ++ BitVec.ofBool c ++ p) = .ok (.fswait c p) ∧
    (p.toNat < s.profile.nport →
      (c = true ∧ (s.port p.toNat).lselChg = false → exec (.fswait c p) s = .next s) ∧
      (c = false → s.pend.getLsbD p.toNat = false → exec (.fswait c p) s = .next s) ∧
      (c = true → s.pend.getLsbD p.toNat = false →
        ∃ t, exec (.fswait c p) s = .next t ∧ PortOnly s t p.toNat { s.port p.toNat with lselChg := false }) ∧
      (¬ (c = true ∧ (s.port p.toNat).lselChg = false) → s.pend.getLsbD p.toNat = true →
        exec (.fswait c p) s = .next { s with wait := .waiting .done p.toNat (.fswait c p.toNat) }))

/-- The word of STANDBY decodes to it; STBY becomes 1; a stopped port, or one that already reports dsp-hold, loses DSPHOLD
and the command ends; a running port that does not is waited for with kind DSPHOLD; nothing else changes. -/
def Obligations.StandbyStopsOrWaits : Prop :=
  ∀ (s : State) (p : Index), s.profile.WellFormed →
    decode (0x33#6 ++ 0#18 ++ p) = .ok (.standby p) ∧
    (p.toNat < s.profile.nport →
      ((s.port p.toNat).run = false ∨ (s.port p.toNat).dspHold = true →
        ∃ t, exec (.standby p) s = .next t ∧
          PortOnly s t p.toNat { s.port p.toNat with stby := true, dspHold := false }) ∧
      ((s.port p.toNat).run = true → (s.port p.toNat).dspHold = false →
        ∃ t, exec (.standby p) s = .next t ∧ t.wait = .waiting .dspHold p.toNat (.standby p.toNat) ∧
          PortOnly s { t with wait := s.wait } p.toNat { s.port p.toNat with stby := true }))

/-- The word of ENABLE decodes to it; with HTOTAL, VTOTAL and the pixel clock all nonzero STBY and DSPHOLD become 0 and
RUN 1, the line count becomes 0 for a port that was stopped and stays for one that ran, nothing else changes;
otherwise TIMING, and for a port out of range BADINDEX. -/
def Obligations.EnableStartsPort : Prop :=
  ∀ (s : State) (p : Index), s.profile.WellFormed →
    let pt := s.port p.toNat
    decode (0x34#6 ++ 0#18 ++ p) = .ok (.enable p) ∧
    (p.toNat < s.profile.nport → pt.htotal ≠ 0 → pt.vtotal ≠ 0 → pt.pclk ≠ 0 →
      ∃ t, exec (.enable p) s = .next t ∧
        PortOnly s t p.toNat
          { pt with stby := false, dspHold := false, run := true, vcnt := if pt.run = true then pt.vcnt else 0 }) ∧
    (p.toNat < s.profile.nport → pt.htotal = 0 ∨ pt.vtotal = 0 ∨ pt.pclk = 0 →
      exec (.enable p) s = .next (commandFault s 0b100000 6)) ∧
    (s.profile.nport ≤ p.toNat → exec (.enable p) s = .next (commandFault s 0b000100 3))

/-- A line tick of a running port (60 R351) and its frame boundary (44 R320): below the wrap the count goes up by one; at
the wrap it becomes 0 and, if the port has committed, what the port owns is copied to the active registers and its
pending bit clears, in one step. -/
def Obligations.LineTickCountsAndLatches : Prop :=
  ∀ (s : State) (p : Nat), s.profile.WellFormed → nextAgent s = .lineTick p → p < s.profile.nport →
    (s.port p).run = true →
    ((s.port p).vcnt.toNat + 1 < (s.port p).vtotal.toNat →
      ∃ t, step s = .next t ∧ (t.port p).vcnt.toNat = (s.port p).vcnt.toNat + 1 ∧
        PortOnly s.turned t p { s.port p with vcnt := (t.port p).vcnt }) ∧
    ((s.port p).vtotal.toNat ≤ (s.port p).vcnt.toNat + 1 → s.pend.getLsbD p = false →
      ∃ t, step s = .next t ∧ PortOnly s.turned t p { s.port p with vcnt := 0 }) ∧
    ((s.port p).vtotal.toNat ≤ (s.port p).vcnt.toNat + 1 → s.pend.getLsbD p = true →
      ∃ t, step s = .next t ∧
        t.port p = { s.port p with vcnt := 0 } ∧ (∀ q, q ≠ p → t.port q = s.port q) ∧
        t.layerSelAct = s.layerSel ∧ t.portMuxAct = s.portMux ∧
        (∀ m < s.profile.nmixer,
          t.slot m = if (s.slot m).valid = true ∧ (s.slot m).owner.toNat = p
            then { s.slot m with act := (s.slot m).words } else s.slot m) ∧
        (∀ w < s.profile.nwin,
          t.win w = if (s.win w).vpMask = 1#4 <<< p
            then { s.win w with
              sclAct := (s.win w).scl
              cluAct := if classOf s.profile w = .cluster then (s.win w).clu else (s.win w).cluAct }
            else s.win w) ∧
        (∀ q, t.pend.getLsbD q = (s.pend.getLsbD q && decide (q ≠ p))) ∧
        { t with
          ports := s.ports, layerSelAct := s.layerSelAct, portMuxAct := s.portMuxAct, slots := s.slots
          wins := s.wins, pend := s.pend } = s.turned)

/-- When it is the turn of the display-hold logic of a port with STBY and RUN set, RUN becomes 0 and DSPHOLD 1 and nothing
else of the block changes: nothing is latched, the line count and the pending bit stay. -/
def Obligations.DspHoldStopsPort : Prop :=
  ∀ (s : State) (p : Nat), s.profile.WellFormed → nextAgent s = .dspHold p → p < s.profile.nport →
    (s.port p).stby = true → (s.port p).run = true →
    ∃ t, step s = .next t ∧ PortOnly s.turned t p { s.port p with run := false, dspHold := true }

/-- At the poll timer's turn with a command waiting, the LOG bit of the wait's kind is set and the wait is idle; PENDBITS
writes the fresh pending bits of the other ports; FSWAIT.C keeps LSEL_CHG, STANDBY keeps DSPHOLD, and nothing else
changes. -/
def Obligations.TimeoutEndsWait : Prop :=
  ∀ (s : State) (kind : WaitKind) (q : Nat) (rest : Resume),
    s.profile.WellFormed → nextAgent s = .timeout → s.wait = .waiting kind q rest →
    let ended : State :=
      { s.turned with
        wait := .idle
        log := s.log ||| (match kind with | .done => 0b001#3 | .pmux => 0b010#3 | .dspHold => 0b100#3) }
    (∀ rd p, rest = .pendbits rd p →
      ∃ t, step s = .next t ∧ WritesOnly ended t rd ((s.pend &&& ~~~(1#4 <<< p)).setWidth 32)) ∧
    ((∀ rd p, rest ≠ .pendbits rd p) → step s = .next ended)

/-- At the block's own turn with a command waiting and its condition true, the wait is idle; PENDBITS writes the fresh
pending bits of the other ports, FSWAIT.C clears LSEL_CHG, STANDBY clears DSPHOLD, PMUXWAIT and FSWAIT write nothing,
and nothing else changes. -/
def Obligations.ResumeFinishesCommand : Prop :=
  ∀ (s : State) (kind : WaitKind) (q : Nat) (rest : Resume),
    s.profile.WellFormed → nextAgent s = .resume → s.wait = .waiting kind q rest →
    (kind = .done → s.pend.getLsbD q = false) → (kind = .pmux → s.portMuxAct = s.portMux) →
    (kind = .dspHold → (s.port q).dspHold = true) →
    let ended : State := { s.turned with wait := .idle }
    (∀ rd p, rest = .pendbits rd p →
      ∃ t, step s = .next t ∧ WritesOnly ended t rd ((s.pend &&& ~~~(1#4 <<< p)).setWidth 32)) ∧
    (rest = .pmuxwait ∨ (∃ p, rest = .fswait false p) → step s = .next ended) ∧
    (∀ p < s.profile.nport, rest = .fswait true p →
      ∃ t, step s = .next t ∧ PortOnly ended t p { s.port p with lselChg := false }) ∧
    (∀ p < s.profile.nport, rest = .standby p →
      ∃ t, step s = .next t ∧ PortOnly ended t p { s.port p with dspHold := false })

/-- In every step other than reset from a waiting state whose condition holds, if the next state still waits, it is the
same wait and its condition still holds. -/
def Obligations.WaitConditionIsStable : Prop :=
  ∀ (s t : State) (kind : WaitKind) (q : Nat) (rest : Resume),
    s.wait = .waiting kind q rest → waitCondition s kind q = true → step s = .next t → nextAgent s ≠ .reset →
    t.wait = .idle ∨ (t.wait = s.wait ∧ waitCondition t kind q = true)

/-- A turn of an agent that is not enabled passes: the model's choice (log entry 4), since 60 R356 only says when each
step is enabled. -/
def Obligations.DisabledTurnsPass : Prop :=
  ∀ (s : State) (p : Nat), s.profile.WellFormed →
    (nextAgent s = .lineTick p → s.profile.nport ≤ p ∨ (s.port p).run = false → step s = .next s.turned) ∧
    (nextAgent s = .dspHold p → s.profile.nport ≤ p ∨ (s.port p).stby = false ∨ (s.port p).run = false →
      step s = .next s.turned) ∧
    (nextAgent s = .timeout ∨ nextAgent s = .resume → s.wait = .idle → step s = .next s.turned) ∧
    (∀ kind q rest, nextAgent s = .resume → s.wait = .waiting kind q rest → waitCondition s kind q = false →
      step s = .next s.turned)

/-- For every profile, after reset the operand registers, SEQ, FLAGS, STATUS, FAULT, FAULTINFO, LOG, CFG_DONE, MIX_OWNER,
BW, MIX and CLU words and scaling registers read 0, HWCFG shows the profile, the selectors hold SELID, the port muxes
8, the ports are in standby and stopped, the windows disabled and opaque, ACFG is 0x00FFFF00 and nothing waits;
State.reset is this for the default profile. -/
def Obligations.ResetValuesAreTheTable : Prop :=
  (∀ c : Profile, c.WellFormed →
    let s := State.resetOf c
    (∀ i, readReg s (.x i) = 0) ∧
    (∀ name ∈ [RegName.seq, .flags, .status, .fault, .faultInfo, .log, .cfgDone, .mixOwner], readReg s name = 0) ∧
    readReg s .id = 0x53464301 ∧
    readReg s .hwcfg =
      0#20 ++ BitVec.ofBool c.sharedScaler ++ BitVec.ofBool c.avgCap ++ BitVec.ofBool c.prescaleCap ++
        BitVec.ofBool c.sharedLatch ++ BitVec.ofNat 4 c.nwin ++ BitVec.ofNat 4 c.nport ∧
    (∀ l < c.nlayer, getAt s.layerSel l = selCode c l ∧ getAt s.layerSelAct l = selCode c l) ∧
    (∀ p < c.nport, getAt s.portMux p = 8 ∧ getAt s.portMuxAct p = 8) ∧
    (∀ p < c.nport, readReg s (.port p .ctrl) = 0x00000001 ∧
      ∀ r ∈ [PortReg.timing, .pclk, .vcnt, .winMask, .layers], readReg s (.port p r) = 0) ∧
    (∀ w < c.nwin,
      readReg s (.window w .ctrl) = (classCode (classOf c w)).setWidth 32 <<< 16 ∧
      readReg s (.window w .alpha) = 0x000000FF ∧
      readReg s (.window w .sub) = (if classOf c w = .cluster then 0x00FF0000 else 0) ∧
      ∀ r, readReg s (.window w (.scl r)) = 0 ∧ readReg s (.window w (.sclAct r)) = 0) ∧
    readReg s .acfg = 0x00FFFF00 ∧
    (∀ r, readReg s (.bw r) = 0) ∧
    (∀ m < c.nmixer, ∀ active r, readReg s (.mix m active r) = 0) ∧
    (∀ w < c.nwin, ∀ active r, readReg s (.clu w active r) = 0) ∧
    s.wait = .idle ∧ s.profile = c) ∧
  State.reset = State.resetOf Profile.standard ∧
  readReg State.reset .hwcfg = 0x00000363 ∧
  readReg State.reset .layerSel = 0x00543210 ∧ readReg State.reset .layerSelAct = 0x00543210 ∧
  readReg State.reset .portMux = 0x00000888 ∧ readReg State.reset .portMuxAct = 0x00000888

/-- At a turn of reset the next state is the reset state of the state's own profile, whatever the block was doing; the
host's accesses not yet taken, the turns to come and the last value the host read, which are no state of the block,
stay (log entry 17). -/
def Obligations.ResetEventRestoresAll : Prop :=
  ∀ s : State, s.profile.WellFormed → nextAgent s = .reset →
    step s = .next { State.resetOf s.profile with
      hostOps := s.hostOps, schedule := s.schedule.tail, readData := s.readData }

/-- For every profile of R9 the state after reset meets the invariant of the assignment mux, of the commit arbiter, of the
control words and slot owners, of the fault record, of the flags and of the scaling registers; State.reset is one of
them. -/
def Obligations.ResetStateIsSound : Prop :=
  Profile.standard.WellFormed ∧
  ∀ c : Profile, c.WellFormed →
    let s := State.resetOf c
    AssignmentSound s ∧ CommitSound s ∧ WordsDerived s ∧ ControlWordsLegal s ∧ SlotsOwned s ∧
      FaultRecordSound s ∧ FlagsExclusive s.flags ∧ ScalerBitsSound s

/-- Every step of every agent keeps the window exclusivity of 10 R41 and R42 with the counts, ranges and port mux of 42
R212, R215 and R217 and the sound range of 43 R271. -/
def Obligations.AssignmentStaysSound : Prop :=
  ∀ s t : State, AssignmentSound s → step s = .next t → AssignmentSound t

/-- For every state in which only existing ports are pending, a port out of standby runs, a running port shows no dsp-hold
and the wait fits the command that waits, the next state of any step of any agent is such a state. -/
def Obligations.CommitArbiterStaysSound : Prop :=
  ∀ s t : State, CommitSound s → step s = .next t → CommitSound t

/-- Every step keeps the control words derived or zero (10 R52, R54), within the codes of the layout (43 R244), and the
slots owned or empty (43 R269). The layout of 10 R55 and the body of the derive function are general knowledge of the
spec, not in its source (log entry 20). -/
def Obligations.ControlWordsStayDerived : Prop :=
  (∀ s t : State, WordsDerived s → step s = .next t → WordsDerived t) ∧
  (∀ s t : State, ControlWordsLegal s → SlotsOwned s → step s = .next t → ControlWordsLegal t ∧ SlotsOwned t)

/-- For every state in which FAULTINFO is filled exactly when FAULT is nonzero, at most one pre-scale flag is 1 and the
scaling registers hold no bit they do not implement, the next state of any step of any agent is such a state. -/
def Obligations.RecordAndFlagsStaySound : Prop :=
  ∀ s t : State, FaultRecordSound s → FlagsExclusive s.flags → ScalerBitsSound s → step s = .next t →
    FaultRecordSound t ∧ FlagsExclusive t.flags ∧ ScalerBitsSound t

/-- If a step of any agent changes any active copy (selector, port mux, slot words, scaling registers, inner-stage words),
the agent was reset, or the line counter of a running port whose count wraps and whose pending bit is set. -/
def Obligations.ActiveCopiesChangeOnlyAtCommittedBoundary : Prop :=
  ∀ s t : State, step s = .next t → t.active ≠ s.active →
    nextAgent s = .reset ∨ ∃ p, nextAgent s = .lineTick p ∧ CommittedBoundaryDue s p

/-- In every step the profile stays; in every step other than reset SEQ goes up by one, wrapping, exactly when the step
accepts a command word, and stays otherwise, whatever the command does. -/
def Obligations.SeqCountsAcceptedCommands : Prop :=
  ∀ s t : State, step s = .next t →
    t.profile = s.profile ∧
    (nextAgent s ≠ .reset → AcceptsCommand s → t.seq = s.seq + 1) ∧
    (nextAgent s ≠ .reset → ¬ AcceptsCommand s → t.seq = s.seq)

/-- If a command changes FLAGS it is PRESCL, SCLFAC or SCLAUTO, and PRESCL keeps CAL, the others the pre-scale flags; BW
only DERIVE; the staged selector, the port mux and the masks only ASSIGN; slots only BLEND; inner-stage words only
CLUBLEND; the layer counts, START and RANGE_CHG only ASSIGN; LSEL_CHG only ASSIGN and FSWAIT; STBY and DSPHOLD only
STANDBY and ENABLE; RUN and the line count only ENABLE; the pending bits and GLBEN only CFGDONE; only four commands
wait; no command changes an active copy or SEQ. -/
def Obligations.RegistersHaveOneWriter : Prop :=
  ∀ (i : Instr) (s t : State), exec i s = .next t →
    (t.flags ≠ s.flags → i.op = .prescl ∨ i.op = .sclfac ∨ i.op = .sclauto) ∧
    (i.op = .prescl → t.flags.cal = s.flags.cal) ∧
    (i.op = .sclfac ∨ i.op = .sclauto → { t.flags with cal := s.flags.cal } = s.flags) ∧
    (t.bw ≠ s.bw → i.op = .derive) ∧
    (t.layerSel ≠ s.layerSel ∨ t.portMux ≠ s.portMux ∨ (∃ q, (t.port q).winMask ≠ (s.port q).winMask) →
      i.op = .assign) ∧
    (t.slots ≠ s.slots → i.op = .blend) ∧
    ((∃ w, (t.win w).clu ≠ (s.win w).clu) → i.op = .clublend) ∧
    ((∃ q, (t.port q).nrLayers ≠ (s.port q).nrLayers ∨ (t.port q).wcnt ≠ (s.port q).wcnt ∨
        (t.port q).start ≠ (s.port q).start ∨ (t.port q).rangeChg ≠ (s.port q).rangeChg) → i.op = .assign) ∧
    ((∃ q, (t.port q).lselChg ≠ (s.port q).lselChg) → i.op = .assign ∨ i.op = .fswait) ∧
    ((∃ q, (t.port q).stby ≠ (s.port q).stby ∨ (t.port q).dspHold ≠ (s.port q).dspHold) →
      i.op = .standby ∨ i.op = .enable) ∧
    ((∃ q, (t.port q).run ≠ (s.port q).run ∨ (t.port q).vcnt ≠ (s.port q).vcnt) → i.op = .enable) ∧
    (t.pend ≠ s.pend ∨ t.glbEn ≠ s.glbEn → i.op = .cfgdone) ∧
    (t.wait ≠ s.wait → i.op = .pendbits ∨ i.op = .pmuxwait ∨ i.op = .fswait ∨ i.op = .standby) ∧
    t.active = s.active ∧ t.seq = s.seq
end

