-- ==== Sys2Proof/Laws/Bank.lean ====
section
/-! SUPPORT. One entry of a bank after another was replaced: `getAt`, `setAt`, `modAt`, and folds of `modAt` over a range of
indices. -/

namespace Sys2Proof.Machine

variable {α : Type} [Inhabited α] {n : Nat}

theorem getAt_eq_default (v : Vector α n) {i : Nat} (h : n ≤ i) : getAt v i = default := by
  simp [getAt, Nat.not_lt.mpr h]

theorem getAt_of_lt (v : Vector α n) {i : Nat} (h : i < n) : getAt v i = v[i] := by
  simp [getAt, h]

omit [Inhabited α] in
theorem setAt_of_le (v : Vector α n) {i : Nat} (a : α) (h : n ≤ i) : setAt v i a = v := by
  simp [setAt, Nat.not_lt.mpr h]

/-- Reading an entry after a write: the written value at its own index, the old value elsewhere. -/
theorem getAt_setAt (v : Vector α n) (i j : Nat) (a : α) :
    getAt (setAt v i a) j = if j = i ∧ i < n then a else getAt v j := by
  by_cases hi : i < n
  · by_cases hj : j < n
    · simp only [getAt, setAt, hi, hj, dif_pos, and_true, Vector.getElem_set]
      by_cases h : i = j
      · simp [h]
      · simp [h, Ne.symm h]
    · have : j ≠ i := fun h => hj (h ▸ hi)
      simp [getAt, hj, this]
  · simp [setAt, hi]

@[simp] theorem getAt_setAt_self (v : Vector α n) {i : Nat} (a : α) (h : i < n) : getAt (setAt v i a) i = a := by
  simp [getAt_setAt, h]

theorem getAt_setAt_ne (v : Vector α n) {i j : Nat} (a : α) (h : j ≠ i) : getAt (setAt v i a) j = getAt v j := by
  simp [getAt_setAt, h]

/-- Reading an entry after an update. -/
theorem getAt_modAt (v : Vector α n) (i j : Nat) (f : α → α) :
    getAt (modAt v i f) j = if j = i ∧ i < n then f (getAt v i) else getAt v j := by
  simp [modAt, getAt_setAt]

@[simp] theorem getAt_modAt_self (v : Vector α n) {i : Nat} (f : α → α) (h : i < n) :
    getAt (modAt v i f) i = f (getAt v i) := by
  simp [getAt_modAt, h]

theorem getAt_modAt_ne (v : Vector α n) {i j : Nat} (f : α → α) (h : j ≠ i) : getAt (modAt v i f) j = getAt v j := by
  simp [getAt_modAt, h]

/-- Two banks with the same entries are equal. -/
theorem bank_ext {v w : Vector α n} (h : ∀ i < n, getAt v i = getAt w i) : v = w := by
  apply Vector.ext
  intro i hi
  have := h i hi
  rwa [getAt_of_lt v hi, getAt_of_lt w hi] at this

theorem setAt_getAt_self (v : Vector α n) (i : Nat) : setAt v i (getAt v i) = v := by
  apply bank_ext
  intro j _
  rw [getAt_setAt]
  split
  · next h => rw [h.1]
  · rfl

theorem setAt_setAt (v : Vector α n) (i : Nat) (a b : α) : setAt (setAt v i a) i b = setAt v i b := by
  apply bank_ext
  intro j _
  simp only [getAt_setAt]
  split <;> rfl

theorem getAt_replicate (a : α) {i : Nat} (h : i < n) : getAt (Vector.replicate n a) i = a := by
  simp [getAt, h]

/-- A fold of updates over distinct indices changes each entry of the list once, by its own update. -/
theorem getAt_foldl_modAt (f : Nat → α → α) (l : List Nat) (hl : l.Nodup) (v : Vector α n) (j : Nat) :
    getAt (l.foldl (fun acc i => modAt acc i (f i)) v) j = if j ∈ l ∧ j < n then f j (getAt v j) else getAt v j := by
  induction l generalizing v with
  | nil => simp
  | cons i l ih =>
    obtain ⟨hi, hl⟩ := List.nodup_cons.mp hl
    rw [List.foldl_cons, ih hl]
    by_cases hj : j = i
    · subst hj
      simp [hi, getAt_modAt]
    · simp [getAt_modAt_ne v (f i) hj, hj]

/-- The same over the indices `0` to `count - 1`. -/
theorem getAt_foldl_range (f : Nat → α → α) (count : Nat) (v : Vector α n) (j : Nat) :
    getAt ((List.range count).foldl (fun acc i => modAt acc i (f i)) v) j =
      if j < count ∧ j < n then f j (getAt v j) else getAt v j := by
  rw [getAt_foldl_modAt f _ List.nodup_range]
  simp

/-- A fold that writes a value at every index below `count`. -/
theorem getAt_foldl_setAt (f : Nat → α) (count : Nat) (v : Vector α n) (j : Nat) :
    getAt ((List.range count).foldl (fun acc i => setAt acc i (f i)) v) j =
      if j < count ∧ j < n then f j else getAt v j := by
  exact getAt_foldl_range (fun i _ => f i) count v j

end Sys2Proof.Machine
end

