-- ==== Sys2Proof/Laws/Bits.lean ====
section
/-! SUPPORT. The bit primitives of 00_scope.md R12, one-hot masks, and the check of ASSIGN in words. -/

namespace Sys2Proof.Machine

theorem getLsbD_bit {n : Nat} (i j : Nat) : (bit n i).getLsbD j = decide (j < n ∧ j = i) := by
  unfold bit
  rw [BitVec.getLsbD_shiftLeft, BitVec.getLsbD_one]
  rw [Bool.eq_iff_iff]
  simp
  omega

theorem namesPort_iff (m : BitVec 4) (p : Nat) : namesPort m p = true ↔ p < 4 ∧ m = 1#4 <<< p := by
  unfold namesPort
  rw [beq_iff_eq]
  constructor
  · intro h
    have hp : p < 4 := by
      by_contra hp
      have h1 : 2 ^ 4 ≤ 2 ^ p := Nat.pow_le_pow_right (by decide) (by omega)
      have := m.isLt
      omega
    refine ⟨hp, BitVec.eq_of_toNat_eq ?_⟩
    rw [h]
    interval_cases p <;> rfl
  · rintro ⟨hp, rfl⟩
    interval_cases p <;> rfl

theorem namesPort_of_lt {m : BitVec 4} {p : Nat} (h : p < 4) : namesPort m p = decide (m = 1#4 <<< p) := by
  rw [Bool.eq_iff_iff, namesPort_iff]
  simp [h]

/-- A mask names one port at most. -/
theorem namesPort_unique {m : BitVec 4} {p q : Nat} (hp : namesPort m p = true) (hq : namesPort m q = true) : p = q := by
  unfold namesPort at hp hq
  rw [beq_iff_eq] at hp hq
  exact Nat.pow_right_injective (le_refl 2) (hp.symm.trans hq)

/-- The check of ASSIGN on one `VPMASK` says that the mask is one bit of a port that exists (42 R210). -/
theorem oneHot_iff (m : BitVec 4) {n : Nat} (h : n ≤ 4) :
    (popcount m = 1 ∧ m.toNat < 2 ^ n) ↔ ∃ q < n, m = 1#4 <<< q := by
  interval_cases n <;> revert m <;> decide

/-- The check of ASSIGN, in words. -/
theorem assignable_iff {s : State} (h : s.profile.nport ≤ 4) : assignable s = true ↔ VpMasksOneHot s := by
  unfold assignable VpMasksOneHot
  rw [List.all_eq_true]
  simp only [List.mem_range, Bool.or_eq_true, Bool.not_eq_true', Bool.and_eq_true, beq_iff_eq, decide_eq_true_eq]
  refine forall₂_congr fun w _ => ?_
  rw [oneHot_iff _ h]
  cases (s.win w).en <;> simp

theorem popcount_le {n : Nat} (v : BitVec n) : popcount v ≤ n := by
  unfold popcount
  exact le_trans (List.length_filter_le _ _) (by simp)

/-- A bit of a packed word is the bit of its 4-bit field. -/
theorem getLsbD_packNibbles (count : Nat) (f : Nat → BitVec 4) (j : Nat) :
    (packNibbles count f).getLsbD j = (decide (j < 32 ∧ j / 4 < count) && (f (j / 4)).getLsbD (j % 4)) := by
  unfold packNibbles
  induction count with
  | zero => simp
  | succ n ih =>
    rw [List.range_succ, List.foldl_append, List.foldl_cons, List.foldl_nil, BitVec.getLsbD_or, ih,
      BitVec.getLsbD_shiftLeft, BitVec.getLsbD_setWidth]
    by_cases hj : j < 32
    · rcases Nat.lt_trichotomy (j / 4) n with h | h | h
      · simp [hj, h, show j < 4 * n by omega, show j / 4 < n + 1 by omega]
      · subst h
        simp [hj, show ¬ j < 4 * (j / 4) by omega, show j % 4 < 32 by omega,
          show j - 4 * (j / 4) = j % 4 by omega]
      · have : (f n).getLsbD (j - 4 * n) = false := BitVec.getLsbD_of_ge _ _ (by omega)
        simp [show ¬ j / 4 < n by omega, show ¬ j / 4 < n + 1 by omega, this]
    · simp [hj]

/-- Field `i` of a packed word (10 R32, R33, R34). -/
theorem packNibbles_field (count : Nat) (f : Nat → BitVec 4) {i : Nat} (hi : i < 8) :
    (packNibbles count f).extractLsb' (4 * i) 4 = if i < count then f i else 0 := by
  apply BitVec.eq_of_getLsbD_eq
  intro k hk
  rw [BitVec.getLsbD_extractLsb', getLsbD_packNibbles, show (4 * i + k) / 4 = i by omega,
    show (4 * i + k) % 4 = k by omega]
  by_cases h : i < count <;> simp [h, hk, show 4 * i + k < 32 by omega]

end Sys2Proof.Machine
end

