-- ==== Sys2Proof/Laws/State.lean ====
section
/-! SUPPORT. One lemma per field per update of the state: what the update leaves in each field. All are true by `rfl`. -/

namespace Sys2Proof.Machine

variable (s : State)

/-! `x[i] <- v`. -/

@[simp] theorem State.setReg_profile (i : RegNum) (v : Word) : (s.setReg i v).profile = s.profile := rfl
@[simp] theorem State.setReg_x (i : RegNum) (v : Word) : (s.setReg i v).x = setAt s.x i.toNat v := rfl
@[simp] theorem State.setReg_seq (i : RegNum) (v : Word) : (s.setReg i v).seq = s.seq := rfl
@[simp] theorem State.setReg_flags (i : RegNum) (v : Word) : (s.setReg i v).flags = s.flags := rfl
@[simp] theorem State.setReg_fault (i : RegNum) (v : Word) : (s.setReg i v).fault = s.fault := rfl
@[simp] theorem State.setReg_faultInfo (i : RegNum) (v : Word) : (s.setReg i v).faultInfo = s.faultInfo := rfl
@[simp] theorem State.setReg_log (i : RegNum) (v : Word) : (s.setReg i v).log = s.log := rfl
@[simp] theorem State.setReg_pend (i : RegNum) (v : Word) : (s.setReg i v).pend = s.pend := rfl
@[simp] theorem State.setReg_glbEn (i : RegNum) (v : Word) : (s.setReg i v).glbEn = s.glbEn := rfl
@[simp] theorem State.setReg_layerSel (i : RegNum) (v : Word) : (s.setReg i v).layerSel = s.layerSel := rfl
@[simp] theorem State.setReg_layerSelAct (i : RegNum) (v : Word) : (s.setReg i v).layerSelAct = s.layerSelAct := rfl
@[simp] theorem State.setReg_portMux (i : RegNum) (v : Word) : (s.setReg i v).portMux = s.portMux := rfl
@[simp] theorem State.setReg_portMuxAct (i : RegNum) (v : Word) : (s.setReg i v).portMuxAct = s.portMuxAct := rfl
@[simp] theorem State.setReg_acfg (i : RegNum) (v : Word) : (s.setReg i v).acfg = s.acfg := rfl
@[simp] theorem State.setReg_bw (i : RegNum) (v : Word) : (s.setReg i v).bw = s.bw := rfl
@[simp] theorem State.setReg_ports (i : RegNum) (v : Word) : (s.setReg i v).ports = s.ports := rfl
@[simp] theorem State.setReg_wins (i : RegNum) (v : Word) : (s.setReg i v).wins = s.wins := rfl
@[simp] theorem State.setReg_slots (i : RegNum) (v : Word) : (s.setReg i v).slots = s.slots := rfl
@[simp] theorem State.setReg_wait (i : RegNum) (v : Word) : (s.setReg i v).wait = s.wait := rfl
@[simp] theorem State.setReg_hostOps (i : RegNum) (v : Word) : (s.setReg i v).hostOps = s.hostOps := rfl
@[simp] theorem State.setReg_schedule (i : RegNum) (v : Word) : (s.setReg i v).schedule = s.schedule := rfl
@[simp] theorem State.setReg_readData (i : RegNum) (v : Word) : (s.setReg i v).readData = s.readData := rfl

/-! A port updated. -/

@[simp] theorem State.modPort_profile (p : Nat) (f : Port → Port) : (s.modPort p f).profile = s.profile := rfl
@[simp] theorem State.modPort_x (p : Nat) (f : Port → Port) : (s.modPort p f).x = s.x := rfl
@[simp] theorem State.modPort_seq (p : Nat) (f : Port → Port) : (s.modPort p f).seq = s.seq := rfl
@[simp] theorem State.modPort_flags (p : Nat) (f : Port → Port) : (s.modPort p f).flags = s.flags := rfl
@[simp] theorem State.modPort_fault (p : Nat) (f : Port → Port) : (s.modPort p f).fault = s.fault := rfl
@[simp] theorem State.modPort_faultInfo (p : Nat) (f : Port → Port) : (s.modPort p f).faultInfo = s.faultInfo := rfl
@[simp] theorem State.modPort_log (p : Nat) (f : Port → Port) : (s.modPort p f).log = s.log := rfl
@[simp] theorem State.modPort_pend (p : Nat) (f : Port → Port) : (s.modPort p f).pend = s.pend := rfl
@[simp] theorem State.modPort_glbEn (p : Nat) (f : Port → Port) : (s.modPort p f).glbEn = s.glbEn := rfl
@[simp] theorem State.modPort_layerSel (p : Nat) (f : Port → Port) : (s.modPort p f).layerSel = s.layerSel := rfl
@[simp] theorem State.modPort_layerSelAct (p : Nat) (f : Port → Port) :
    (s.modPort p f).layerSelAct = s.layerSelAct := rfl
@[simp] theorem State.modPort_portMux (p : Nat) (f : Port → Port) : (s.modPort p f).portMux = s.portMux := rfl
@[simp] theorem State.modPort_portMuxAct (p : Nat) (f : Port → Port) :
    (s.modPort p f).portMuxAct = s.portMuxAct := rfl
@[simp] theorem State.modPort_acfg (p : Nat) (f : Port → Port) : (s.modPort p f).acfg = s.acfg := rfl
@[simp] theorem State.modPort_bw (p : Nat) (f : Port → Port) : (s.modPort p f).bw = s.bw := rfl
@[simp] theorem State.modPort_ports (p : Nat) (f : Port → Port) : (s.modPort p f).ports = modAt s.ports p f := rfl
@[simp] theorem State.modPort_wins (p : Nat) (f : Port → Port) : (s.modPort p f).wins = s.wins := rfl
@[simp] theorem State.modPort_slots (p : Nat) (f : Port → Port) : (s.modPort p f).slots = s.slots := rfl
@[simp] theorem State.modPort_wait (p : Nat) (f : Port → Port) : (s.modPort p f).wait = s.wait := rfl
@[simp] theorem State.modPort_hostOps (p : Nat) (f : Port → Port) : (s.modPort p f).hostOps = s.hostOps := rfl
@[simp] theorem State.modPort_schedule (p : Nat) (f : Port → Port) : (s.modPort p f).schedule = s.schedule := rfl
@[simp] theorem State.modPort_readData (p : Nat) (f : Port → Port) : (s.modPort p f).readData = s.readData := rfl

/-! A window updated. -/

@[simp] theorem State.modWin_profile (w : Nat) (f : Window → Window) : (s.modWin w f).profile = s.profile := rfl
@[simp] theorem State.modWin_x (w : Nat) (f : Window → Window) : (s.modWin w f).x = s.x := rfl
@[simp] theorem State.modWin_seq (w : Nat) (f : Window → Window) : (s.modWin w f).seq = s.seq := rfl
@[simp] theorem State.modWin_flags (w : Nat) (f : Window → Window) : (s.modWin w f).flags = s.flags := rfl
@[simp] theorem State.modWin_fault (w : Nat) (f : Window → Window) : (s.modWin w f).fault = s.fault := rfl
@[simp] theorem State.modWin_faultInfo (w : Nat) (f : Window → Window) : (s.modWin w f).faultInfo = s.faultInfo := rfl
@[simp] theorem State.modWin_log (w : Nat) (f : Window → Window) : (s.modWin w f).log = s.log := rfl
@[simp] theorem State.modWin_pend (w : Nat) (f : Window → Window) : (s.modWin w f).pend = s.pend := rfl
@[simp] theorem State.modWin_glbEn (w : Nat) (f : Window → Window) : (s.modWin w f).glbEn = s.glbEn := rfl
@[simp] theorem State.modWin_layerSel (w : Nat) (f : Window → Window) : (s.modWin w f).layerSel = s.layerSel := rfl
@[simp] theorem State.modWin_layerSelAct (w : Nat) (f : Window → Window) :
    (s.modWin w f).layerSelAct = s.layerSelAct := rfl
@[simp] theorem State.modWin_portMux (w : Nat) (f : Window → Window) : (s.modWin w f).portMux = s.portMux := rfl
@[simp] theorem State.modWin_portMuxAct (w : Nat) (f : Window → Window) :
    (s.modWin w f).portMuxAct = s.portMuxAct := rfl
@[simp] theorem State.modWin_acfg (w : Nat) (f : Window → Window) : (s.modWin w f).acfg = s.acfg := rfl
@[simp] theorem State.modWin_bw (w : Nat) (f : Window → Window) : (s.modWin w f).bw = s.bw := rfl
@[simp] theorem State.modWin_ports (w : Nat) (f : Window → Window) : (s.modWin w f).ports = s.ports := rfl
@[simp] theorem State.modWin_wins (w : Nat) (f : Window → Window) : (s.modWin w f).wins = modAt s.wins w f := rfl
@[simp] theorem State.modWin_slots (w : Nat) (f : Window → Window) : (s.modWin w f).slots = s.slots := rfl
@[simp] theorem State.modWin_wait (w : Nat) (f : Window → Window) : (s.modWin w f).wait = s.wait := rfl
@[simp] theorem State.modWin_hostOps (w : Nat) (f : Window → Window) : (s.modWin w f).hostOps = s.hostOps := rfl
@[simp] theorem State.modWin_schedule (w : Nat) (f : Window → Window) : (s.modWin w f).schedule = s.schedule := rfl
@[simp] theorem State.modWin_readData (w : Nat) (f : Window → Window) : (s.modWin w f).readData = s.readData := rfl

/-! A fault recorded. -/

@[simp] theorem State.recordFault_profile (f : HardFault) (info : Word) :
    (s.recordFault f info).profile = s.profile := rfl
@[simp] theorem State.recordFault_x (f : HardFault) (info : Word) : (s.recordFault f info).x = s.x := rfl
@[simp] theorem State.recordFault_seq (f : HardFault) (info : Word) : (s.recordFault f info).seq = s.seq := rfl
@[simp] theorem State.recordFault_flags (f : HardFault) (info : Word) : (s.recordFault f info).flags = s.flags := rfl
@[simp] theorem State.recordFault_fault (f : HardFault) (info : Word) :
    (s.recordFault f info).fault = s.fault ||| bit 6 f.bitIndex := rfl
@[simp] theorem State.recordFault_faultInfo (f : HardFault) (info : Word) :
    (s.recordFault f info).faultInfo = if s.faultInfo = 0 then info else s.faultInfo := rfl
@[simp] theorem State.recordFault_log (f : HardFault) (info : Word) : (s.recordFault f info).log = s.log := rfl
@[simp] theorem State.recordFault_pend (f : HardFault) (info : Word) : (s.recordFault f info).pend = s.pend := rfl
@[simp] theorem State.recordFault_glbEn (f : HardFault) (info : Word) : (s.recordFault f info).glbEn = s.glbEn := rfl
@[simp] theorem State.recordFault_layerSel (f : HardFault) (info : Word) :
    (s.recordFault f info).layerSel = s.layerSel := rfl
@[simp] theorem State.recordFault_layerSelAct (f : HardFault) (info : Word) :
    (s.recordFault f info).layerSelAct = s.layerSelAct := rfl
@[simp] theorem State.recordFault_portMux (f : HardFault) (info : Word) :
    (s.recordFault f info).portMux = s.portMux := rfl
@[simp] theorem State.recordFault_portMuxAct (f : HardFault) (info : Word) :
    (s.recordFault f info).portMuxAct = s.portMuxAct := rfl
@[simp] theorem State.recordFault_acfg (f : HardFault) (info : Word) : (s.recordFault f info).acfg = s.acfg := rfl
@[simp] theorem State.recordFault_bw (f : HardFault) (info : Word) : (s.recordFault f info).bw = s.bw := rfl
@[simp] theorem State.recordFault_ports (f : HardFault) (info : Word) : (s.recordFault f info).ports = s.ports := rfl
@[simp] theorem State.recordFault_wins (f : HardFault) (info : Word) : (s.recordFault f info).wins = s.wins := rfl
@[simp] theorem State.recordFault_slots (f : HardFault) (info : Word) : (s.recordFault f info).slots = s.slots := rfl
@[simp] theorem State.recordFault_wait (f : HardFault) (info : Word) : (s.recordFault f info).wait = s.wait := rfl
@[simp] theorem State.recordFault_hostOps (f : HardFault) (info : Word) :
    (s.recordFault f info).hostOps = s.hostOps := rfl
@[simp] theorem State.recordFault_schedule (f : HardFault) (info : Word) :
    (s.recordFault f info).schedule = s.schedule := rfl
@[simp] theorem State.recordFault_readData (f : HardFault) (info : Word) :
    (s.recordFault f info).readData = s.readData := rfl

/-! A fault of a command. -/

@[simp] theorem State.raise_profile (f : HardFault) : (s.raise f).profile = s.profile := rfl
@[simp] theorem State.raise_x (f : HardFault) : (s.raise f).x = s.x := rfl
@[simp] theorem State.raise_seq (f : HardFault) : (s.raise f).seq = s.seq := rfl
@[simp] theorem State.raise_flags (f : HardFault) : (s.raise f).flags = s.flags := rfl
@[simp] theorem State.raise_fault (f : HardFault) : (s.raise f).fault = s.fault ||| bit 6 f.bitIndex := rfl
@[simp] theorem State.raise_faultInfo (f : HardFault) :
    (s.raise f).faultInfo = if s.faultInfo = 0 then s.seq.extractLsb' 0 24 ++ f.code else s.faultInfo := rfl
@[simp] theorem State.raise_log (f : HardFault) : (s.raise f).log = s.log := rfl
@[simp] theorem State.raise_pend (f : HardFault) : (s.raise f).pend = s.pend := rfl
@[simp] theorem State.raise_glbEn (f : HardFault) : (s.raise f).glbEn = s.glbEn := rfl
@[simp] theorem State.raise_layerSel (f : HardFault) : (s.raise f).layerSel = s.layerSel := rfl
@[simp] theorem State.raise_layerSelAct (f : HardFault) : (s.raise f).layerSelAct = s.layerSelAct := rfl
@[simp] theorem State.raise_portMux (f : HardFault) : (s.raise f).portMux = s.portMux := rfl
@[simp] theorem State.raise_portMuxAct (f : HardFault) : (s.raise f).portMuxAct = s.portMuxAct := rfl
@[simp] theorem State.raise_acfg (f : HardFault) : (s.raise f).acfg = s.acfg := rfl
@[simp] theorem State.raise_bw (f : HardFault) : (s.raise f).bw = s.bw := rfl
@[simp] theorem State.raise_ports (f : HardFault) : (s.raise f).ports = s.ports := rfl
@[simp] theorem State.raise_wins (f : HardFault) : (s.raise f).wins = s.wins := rfl
@[simp] theorem State.raise_slots (f : HardFault) : (s.raise f).slots = s.slots := rfl
@[simp] theorem State.raise_wait (f : HardFault) : (s.raise f).wait = s.wait := rfl
@[simp] theorem State.raise_hostOps (f : HardFault) : (s.raise f).hostOps = s.hostOps := rfl
@[simp] theorem State.raise_schedule (f : HardFault) : (s.raise f).schedule = s.schedule := rfl
@[simp] theorem State.raise_readData (f : HardFault) : (s.raise f).readData = s.readData := rfl

/-! A fault of a bus access. -/

@[simp] theorem State.raiseBus_profile : (s.raiseBus).profile = s.profile := rfl
@[simp] theorem State.raiseBus_x : (s.raiseBus).x = s.x := rfl
@[simp] theorem State.raiseBus_seq : (s.raiseBus).seq = s.seq := rfl
@[simp] theorem State.raiseBus_flags : (s.raiseBus).flags = s.flags := rfl
@[simp] theorem State.raiseBus_fault : (s.raiseBus).fault = s.fault ||| bit 6 3 := rfl
@[simp] theorem State.raiseBus_faultInfo :
    (s.raiseBus).faultInfo = if s.faultInfo = 0 then 0#24 ++ HardFault.badAddr.code else s.faultInfo := rfl
@[simp] theorem State.raiseBus_log : (s.raiseBus).log = s.log := rfl
@[simp] theorem State.raiseBus_pend : (s.raiseBus).pend = s.pend := rfl
@[simp] theorem State.raiseBus_glbEn : (s.raiseBus).glbEn = s.glbEn := rfl
@[simp] theorem State.raiseBus_layerSel : (s.raiseBus).layerSel = s.layerSel := rfl
@[simp] theorem State.raiseBus_layerSelAct : (s.raiseBus).layerSelAct = s.layerSelAct := rfl
@[simp] theorem State.raiseBus_portMux : (s.raiseBus).portMux = s.portMux := rfl
@[simp] theorem State.raiseBus_portMuxAct : (s.raiseBus).portMuxAct = s.portMuxAct := rfl
@[simp] theorem State.raiseBus_acfg : (s.raiseBus).acfg = s.acfg := rfl
@[simp] theorem State.raiseBus_bw : (s.raiseBus).bw = s.bw := rfl
@[simp] theorem State.raiseBus_ports : (s.raiseBus).ports = s.ports := rfl
@[simp] theorem State.raiseBus_wins : (s.raiseBus).wins = s.wins := rfl
@[simp] theorem State.raiseBus_slots : (s.raiseBus).slots = s.slots := rfl
@[simp] theorem State.raiseBus_wait : (s.raiseBus).wait = s.wait := rfl
@[simp] theorem State.raiseBus_hostOps : (s.raiseBus).hostOps = s.hostOps := rfl
@[simp] theorem State.raiseBus_schedule : (s.raiseBus).schedule = s.schedule := rfl
@[simp] theorem State.raiseBus_readData : (s.raiseBus).readData = s.readData := rfl

/-! A word counted. -/

@[simp] theorem State.countWord_profile : (s.countWord).profile = s.profile := rfl
@[simp] theorem State.countWord_x : (s.countWord).x = s.x := rfl
@[simp] theorem State.countWord_seq : (s.countWord).seq = s.seq + 1 := rfl
@[simp] theorem State.countWord_flags : (s.countWord).flags = s.flags := rfl
@[simp] theorem State.countWord_fault : (s.countWord).fault = s.fault := rfl
@[simp] theorem State.countWord_faultInfo : (s.countWord).faultInfo = s.faultInfo := rfl
@[simp] theorem State.countWord_log : (s.countWord).log = s.log := rfl
@[simp] theorem State.countWord_pend : (s.countWord).pend = s.pend := rfl
@[simp] theorem State.countWord_glbEn : (s.countWord).glbEn = s.glbEn := rfl
@[simp] theorem State.countWord_layerSel : (s.countWord).layerSel = s.layerSel := rfl
@[simp] theorem State.countWord_layerSelAct : (s.countWord).layerSelAct = s.layerSelAct := rfl
@[simp] theorem State.countWord_portMux : (s.countWord).portMux = s.portMux := rfl
@[simp] theorem State.countWord_portMuxAct : (s.countWord).portMuxAct = s.portMuxAct := rfl
@[simp] theorem State.countWord_acfg : (s.countWord).acfg = s.acfg := rfl
@[simp] theorem State.countWord_bw : (s.countWord).bw = s.bw := rfl
@[simp] theorem State.countWord_ports : (s.countWord).ports = s.ports := rfl
@[simp] theorem State.countWord_wins : (s.countWord).wins = s.wins := rfl
@[simp] theorem State.countWord_slots : (s.countWord).slots = s.slots := rfl
@[simp] theorem State.countWord_wait : (s.countWord).wait = s.wait := rfl
@[simp] theorem State.countWord_hostOps : (s.countWord).hostOps = s.hostOps := rfl
@[simp] theorem State.countWord_schedule : (s.countWord).schedule = s.schedule := rfl
@[simp] theorem State.countWord_readData : (s.countWord).readData = s.readData := rfl

/-! A factor written. -/

@[simp] theorem State.writeFactor_profile (rd : RegNum) (r : Nat × Bool) :
    (s.writeFactor rd r).profile = s.profile := rfl
@[simp] theorem State.writeFactor_x (rd : RegNum) (r : Nat × Bool) :
    (s.writeFactor rd r).x = setAt s.x rd.toNat (BitVec.ofNat 32 r.1) := rfl
@[simp] theorem State.writeFactor_seq (rd : RegNum) (r : Nat × Bool) : (s.writeFactor rd r).seq = s.seq := rfl
@[simp] theorem State.writeFactor_flags (rd : RegNum) (r : Nat × Bool) :
    (s.writeFactor rd r).flags = s.flags.setCal r.2 := rfl
@[simp] theorem State.writeFactor_fault (rd : RegNum) (r : Nat × Bool) : (s.writeFactor rd r).fault = s.fault := rfl
@[simp] theorem State.writeFactor_faultInfo (rd : RegNum) (r : Nat × Bool) :
    (s.writeFactor rd r).faultInfo = s.faultInfo := rfl
@[simp] theorem State.writeFactor_log (rd : RegNum) (r : Nat × Bool) : (s.writeFactor rd r).log = s.log := rfl
@[simp] theorem State.writeFactor_pend (rd : RegNum) (r : Nat × Bool) : (s.writeFactor rd r).pend = s.pend := rfl
@[simp] theorem State.writeFactor_glbEn (rd : RegNum) (r : Nat × Bool) : (s.writeFactor rd r).glbEn = s.glbEn := rfl
@[simp] theorem State.writeFactor_layerSel (rd : RegNum) (r : Nat × Bool) :
    (s.writeFactor rd r).layerSel = s.layerSel := rfl
@[simp] theorem State.writeFactor_layerSelAct (rd : RegNum) (r : Nat × Bool) :
    (s.writeFactor rd r).layerSelAct = s.layerSelAct := rfl
@[simp] theorem State.writeFactor_portMux (rd : RegNum) (r : Nat × Bool) :
    (s.writeFactor rd r).portMux = s.portMux := rfl
@[simp] theorem State.writeFactor_portMuxAct (rd : RegNum) (r : Nat × Bool) :
    (s.writeFactor rd r).portMuxAct = s.portMuxAct := rfl
@[simp] theorem State.writeFactor_acfg (rd : RegNum) (r : Nat × Bool) : (s.writeFactor rd r).acfg = s.acfg := rfl
@[simp] theorem State.writeFactor_bw (rd : RegNum) (r : Nat × Bool) : (s.writeFactor rd r).bw = s.bw := rfl
@[simp] theorem State.writeFactor_ports (rd : RegNum) (r : Nat × Bool) : (s.writeFactor rd r).ports = s.ports := rfl
@[simp] theorem State.writeFactor_wins (rd : RegNum) (r : Nat × Bool) : (s.writeFactor rd r).wins = s.wins := rfl
@[simp] theorem State.writeFactor_slots (rd : RegNum) (r : Nat × Bool) : (s.writeFactor rd r).slots = s.slots := rfl
@[simp] theorem State.writeFactor_wait (rd : RegNum) (r : Nat × Bool) : (s.writeFactor rd r).wait = s.wait := rfl
@[simp] theorem State.writeFactor_hostOps (rd : RegNum) (r : Nat × Bool) :
    (s.writeFactor rd r).hostOps = s.hostOps := rfl
@[simp] theorem State.writeFactor_schedule (rd : RegNum) (r : Nat × Bool) :
    (s.writeFactor rd r).schedule = s.schedule := rfl
@[simp] theorem State.writeFactor_readData (rd : RegNum) (r : Nat × Bool) :
    (s.writeFactor rd r).readData = s.readData := rfl

/-! The five steps of ASSIGN: what they leave alone. -/

@[simp] theorem State.assign_profile (P : Nat) : (s.assign P).profile = s.profile := rfl
@[simp] theorem State.assign_x (P : Nat) : (s.assign P).x = s.x := rfl
@[simp] theorem State.assign_seq (P : Nat) : (s.assign P).seq = s.seq := rfl
@[simp] theorem State.assign_flags (P : Nat) : (s.assign P).flags = s.flags := rfl
@[simp] theorem State.assign_fault (P : Nat) : (s.assign P).fault = s.fault := rfl
@[simp] theorem State.assign_faultInfo (P : Nat) : (s.assign P).faultInfo = s.faultInfo := rfl
@[simp] theorem State.assign_log (P : Nat) : (s.assign P).log = s.log := rfl
@[simp] theorem State.assign_pend (P : Nat) : (s.assign P).pend = s.pend := rfl
@[simp] theorem State.assign_glbEn (P : Nat) : (s.assign P).glbEn = s.glbEn := rfl
@[simp] theorem State.assign_layerSelAct (P : Nat) : (s.assign P).layerSelAct = s.layerSelAct := rfl
@[simp] theorem State.assign_portMuxAct (P : Nat) : (s.assign P).portMuxAct = s.portMuxAct := rfl
@[simp] theorem State.assign_acfg (P : Nat) : (s.assign P).acfg = s.acfg := rfl
@[simp] theorem State.assign_bw (P : Nat) : (s.assign P).bw = s.bw := rfl
@[simp] theorem State.assign_wins (P : Nat) : (s.assign P).wins = s.wins := rfl
@[simp] theorem State.assign_slots (P : Nat) : (s.assign P).slots = s.slots := rfl
@[simp] theorem State.assign_wait (P : Nat) : (s.assign P).wait = s.wait := rfl
@[simp] theorem State.assign_hostOps (P : Nat) : (s.assign P).hostOps = s.hostOps := rfl
@[simp] theorem State.assign_schedule (P : Nat) : (s.assign P).schedule = s.schedule := rfl
@[simp] theorem State.assign_readData (P : Nat) : (s.assign P).readData = s.readData := rfl

/-! The chain of BLEND: what it leaves alone. -/

@[simp] theorem State.blend_profile (P : Nat) : (s.blend P).profile = s.profile := rfl
@[simp] theorem State.blend_x (P : Nat) : (s.blend P).x = s.x := rfl
@[simp] theorem State.blend_seq (P : Nat) : (s.blend P).seq = s.seq := rfl
@[simp] theorem State.blend_flags (P : Nat) : (s.blend P).flags = s.flags := rfl
@[simp] theorem State.blend_fault (P : Nat) : (s.blend P).fault = s.fault := rfl
@[simp] theorem State.blend_faultInfo (P : Nat) : (s.blend P).faultInfo = s.faultInfo := rfl
@[simp] theorem State.blend_log (P : Nat) : (s.blend P).log = s.log := rfl
@[simp] theorem State.blend_pend (P : Nat) : (s.blend P).pend = s.pend := rfl
@[simp] theorem State.blend_glbEn (P : Nat) : (s.blend P).glbEn = s.glbEn := rfl
@[simp] theorem State.blend_layerSel (P : Nat) : (s.blend P).layerSel = s.layerSel := rfl
@[simp] theorem State.blend_layerSelAct (P : Nat) : (s.blend P).layerSelAct = s.layerSelAct := rfl
@[simp] theorem State.blend_portMux (P : Nat) : (s.blend P).portMux = s.portMux := rfl
@[simp] theorem State.blend_portMuxAct (P : Nat) : (s.blend P).portMuxAct = s.portMuxAct := rfl
@[simp] theorem State.blend_acfg (P : Nat) : (s.blend P).acfg = s.acfg := rfl
@[simp] theorem State.blend_bw (P : Nat) : (s.blend P).bw = s.bw := rfl
@[simp] theorem State.blend_ports (P : Nat) : (s.blend P).ports = s.ports := rfl
@[simp] theorem State.blend_wins (P : Nat) : (s.blend P).wins = s.wins := rfl
@[simp] theorem State.blend_wait (P : Nat) : (s.blend P).wait = s.wait := rfl
@[simp] theorem State.blend_hostOps (P : Nat) : (s.blend P).hostOps = s.hostOps := rfl
@[simp] theorem State.blend_schedule (P : Nat) : (s.blend P).schedule = s.schedule := rfl
@[simp] theorem State.blend_readData (P : Nat) : (s.blend P).readData = s.readData := rfl

/-! The copies of a frame boundary. -/

@[simp] theorem State.latch_profile (p : Nat) : (s.latch p).profile = s.profile := rfl
@[simp] theorem State.latch_x (p : Nat) : (s.latch p).x = s.x := rfl
@[simp] theorem State.latch_seq (p : Nat) : (s.latch p).seq = s.seq := rfl
@[simp] theorem State.latch_flags (p : Nat) : (s.latch p).flags = s.flags := rfl
@[simp] theorem State.latch_fault (p : Nat) : (s.latch p).fault = s.fault := rfl
@[simp] theorem State.latch_faultInfo (p : Nat) : (s.latch p).faultInfo = s.faultInfo := rfl
@[simp] theorem State.latch_log (p : Nat) : (s.latch p).log = s.log := rfl
@[simp] theorem State.latch_pend (p : Nat) : (s.latch p).pend = s.pend &&& ~~~(bit 4 p) := rfl
@[simp] theorem State.latch_glbEn (p : Nat) : (s.latch p).glbEn = s.glbEn := rfl
@[simp] theorem State.latch_layerSel (p : Nat) : (s.latch p).layerSel = s.layerSel := rfl
@[simp] theorem State.latch_layerSelAct (p : Nat) : (s.latch p).layerSelAct = s.layerSel := rfl
@[simp] theorem State.latch_portMux (p : Nat) : (s.latch p).portMux = s.portMux := rfl
@[simp] theorem State.latch_portMuxAct (p : Nat) : (s.latch p).portMuxAct = s.portMux := rfl
@[simp] theorem State.latch_acfg (p : Nat) : (s.latch p).acfg = s.acfg := rfl
@[simp] theorem State.latch_bw (p : Nat) : (s.latch p).bw = s.bw := rfl
@[simp] theorem State.latch_ports (p : Nat) : (s.latch p).ports = s.ports := rfl
@[simp] theorem State.latch_wait (p : Nat) : (s.latch p).wait = s.wait := rfl
@[simp] theorem State.latch_hostOps (p : Nat) : (s.latch p).hostOps = s.hostOps := rfl
@[simp] theorem State.latch_schedule (p : Nat) : (s.latch p).schedule = s.schedule := rfl
@[simp] theorem State.latch_readData (p : Nat) : (s.latch p).readData = s.readData := rfl

/-! Reset. -/

@[simp] theorem State.resetEvent_profile : (s.resetEvent).profile = s.profile := rfl
@[simp] theorem State.resetEvent_x : (s.resetEvent).x = Vector.replicate 16 0 := rfl
@[simp] theorem State.resetEvent_seq : (s.resetEvent).seq = 0 := rfl
@[simp] theorem State.resetEvent_flags : (s.resetEvent).flags = ⟨false, false, false, false, false⟩ := rfl
@[simp] theorem State.resetEvent_fault : (s.resetEvent).fault = 0 := rfl
@[simp] theorem State.resetEvent_faultInfo : (s.resetEvent).faultInfo = 0 := rfl
@[simp] theorem State.resetEvent_log : (s.resetEvent).log = 0 := rfl
@[simp] theorem State.resetEvent_pend : (s.resetEvent).pend = 0 := rfl
@[simp] theorem State.resetEvent_glbEn : (s.resetEvent).glbEn = false := rfl
@[simp] theorem State.resetEvent_layerSel : (s.resetEvent).layerSel = resetLayerSel s.profile := rfl
@[simp] theorem State.resetEvent_layerSelAct : (s.resetEvent).layerSelAct = resetLayerSel s.profile := rfl
@[simp] theorem State.resetEvent_portMux : (s.resetEvent).portMux = resetPortMux s.profile := rfl
@[simp] theorem State.resetEvent_portMuxAct : (s.resetEvent).portMuxAct = resetPortMux s.profile := rfl
@[simp] theorem State.resetEvent_acfg : (s.resetEvent).acfg = ⟨false, false, false, false, 0xFF, 0xFF⟩ := rfl
@[simp] theorem State.resetEvent_bw : (s.resetEvent).bw = .zero := rfl
@[simp] theorem State.resetEvent_ports : (s.resetEvent).ports = Vector.replicate 4 Port.reset := rfl
@[simp] theorem State.resetEvent_wins : (s.resetEvent).wins = Vector.replicate 8 Window.reset := rfl
@[simp] theorem State.resetEvent_slots : (s.resetEvent).slots = Vector.replicate 8 MixSlot.reset := rfl
@[simp] theorem State.resetEvent_wait : (s.resetEvent).wait = .idle := rfl
@[simp] theorem State.resetEvent_hostOps : (s.resetEvent).hostOps = s.hostOps := rfl
@[simp] theorem State.resetEvent_schedule : (s.resetEvent).schedule = s.schedule := rfl
@[simp] theorem State.resetEvent_readData : (s.resetEvent).readData = s.readData := rfl

/-! An access of the host taken. -/

@[simp] theorem State.taken_profile (rest : List HostOp) : (s.taken rest).profile = s.profile := rfl
@[simp] theorem State.taken_x (rest : List HostOp) : (s.taken rest).x = s.x := rfl
@[simp] theorem State.taken_seq (rest : List HostOp) : (s.taken rest).seq = s.seq := rfl
@[simp] theorem State.taken_flags (rest : List HostOp) : (s.taken rest).flags = s.flags := rfl
@[simp] theorem State.taken_fault (rest : List HostOp) : (s.taken rest).fault = s.fault := rfl
@[simp] theorem State.taken_faultInfo (rest : List HostOp) : (s.taken rest).faultInfo = s.faultInfo := rfl
@[simp] theorem State.taken_log (rest : List HostOp) : (s.taken rest).log = s.log := rfl
@[simp] theorem State.taken_pend (rest : List HostOp) : (s.taken rest).pend = s.pend := rfl
@[simp] theorem State.taken_glbEn (rest : List HostOp) : (s.taken rest).glbEn = s.glbEn := rfl
@[simp] theorem State.taken_layerSel (rest : List HostOp) : (s.taken rest).layerSel = s.layerSel := rfl
@[simp] theorem State.taken_layerSelAct (rest : List HostOp) : (s.taken rest).layerSelAct = s.layerSelAct := rfl
@[simp] theorem State.taken_portMux (rest : List HostOp) : (s.taken rest).portMux = s.portMux := rfl
@[simp] theorem State.taken_portMuxAct (rest : List HostOp) : (s.taken rest).portMuxAct = s.portMuxAct := rfl
@[simp] theorem State.taken_acfg (rest : List HostOp) : (s.taken rest).acfg = s.acfg := rfl
@[simp] theorem State.taken_bw (rest : List HostOp) : (s.taken rest).bw = s.bw := rfl
@[simp] theorem State.taken_ports (rest : List HostOp) : (s.taken rest).ports = s.ports := rfl
@[simp] theorem State.taken_wins (rest : List HostOp) : (s.taken rest).wins = s.wins := rfl
@[simp] theorem State.taken_slots (rest : List HostOp) : (s.taken rest).slots = s.slots := rfl
@[simp] theorem State.taken_wait (rest : List HostOp) : (s.taken rest).wait = s.wait := rfl
@[simp] theorem State.taken_hostOps (rest : List HostOp) : (s.taken rest).hostOps = rest := rfl
@[simp] theorem State.taken_schedule (rest : List HostOp) : (s.taken rest).schedule = s.schedule.tail := rfl
@[simp] theorem State.taken_readData (rest : List HostOp) : (s.taken rest).readData = s.readData := rfl

/-! A turn taken. -/

@[simp] theorem State.turned_profile : (s.turned).profile = s.profile := rfl
@[simp] theorem State.turned_x : (s.turned).x = s.x := rfl
@[simp] theorem State.turned_seq : (s.turned).seq = s.seq := rfl
@[simp] theorem State.turned_flags : (s.turned).flags = s.flags := rfl
@[simp] theorem State.turned_fault : (s.turned).fault = s.fault := rfl
@[simp] theorem State.turned_faultInfo : (s.turned).faultInfo = s.faultInfo := rfl
@[simp] theorem State.turned_log : (s.turned).log = s.log := rfl
@[simp] theorem State.turned_pend : (s.turned).pend = s.pend := rfl
@[simp] theorem State.turned_glbEn : (s.turned).glbEn = s.glbEn := rfl
@[simp] theorem State.turned_layerSel : (s.turned).layerSel = s.layerSel := rfl
@[simp] theorem State.turned_layerSelAct : (s.turned).layerSelAct = s.layerSelAct := rfl
@[simp] theorem State.turned_portMux : (s.turned).portMux = s.portMux := rfl
@[simp] theorem State.turned_portMuxAct : (s.turned).portMuxAct = s.portMuxAct := rfl
@[simp] theorem State.turned_acfg : (s.turned).acfg = s.acfg := rfl
@[simp] theorem State.turned_bw : (s.turned).bw = s.bw := rfl
@[simp] theorem State.turned_ports : (s.turned).ports = s.ports := rfl
@[simp] theorem State.turned_wins : (s.turned).wins = s.wins := rfl
@[simp] theorem State.turned_slots : (s.turned).slots = s.slots := rfl
@[simp] theorem State.turned_wait : (s.turned).wait = s.wait := rfl
@[simp] theorem State.turned_hostOps : (s.turned).hostOps = s.hostOps := rfl
@[simp] theorem State.turned_schedule : (s.turned).schedule = s.schedule.tail := rfl
@[simp] theorem State.turned_readData : (s.turned).readData = s.readData := rfl

/-! The flags. -/

@[simp] theorem Flags.setCal_cal (f : Flags) (b : Bool) : (f.setCal b).cal = b := rfl
@[simp] theorem Flags.setCal_gt2 (f : Flags) (b : Bool) : (f.setCal b).gt2 = f.gt2 := rfl
@[simp] theorem Flags.setCal_gt4 (f : Flags) (b : Bool) : (f.setCal b).gt4 = f.gt4 := rfl
@[simp] theorem Flags.setCal_avg2 (f : Flags) (b : Bool) : (f.setCal b).avg2 = f.avg2 := rfl
@[simp] theorem Flags.setCal_avg4 (f : Flags) (b : Bool) : (f.setCal b).avg4 = f.avg4 := rfl
@[simp] theorem Flags.setPrescale_cal (f : Flags) (b : Bool) (p : Prescale) : (f.setPrescale b p).cal = f.cal := rfl

end Sys2Proof.Machine
end

