-- ==== Sys2Proof/Laws/Ops.lean ====
section
/-! SUPPORT. For each named operation, once, everything it can do: register and bank accessors, faults, waits, the register
file, the range checks of indices, and the step of the machine. -/

namespace Sys2Proof.Machine

/-! ## Registers, ports, windows -/

theorem State.reg_setReg (s : State) (i j : RegNum) (v : Word) : (s.setReg i v).reg j = if j = i then v else s.reg j := by
  have : i.toNat < 16 := i.isLt
  simp [State.reg, getAt_setAt, this, BitVec.toNat_inj]

@[simp] theorem State.reg_setReg_self (s : State) (i : RegNum) (v : Word) : (s.setReg i v).reg i = v := by
  simp [State.reg_setReg]

theorem State.reg_setReg_ne (s : State) {i j : RegNum} (v : Word) (h : j ≠ i) : (s.setReg i v).reg j = s.reg j := by
  simp [State.reg_setReg, h]

/-- A register write changes that register and nothing else. -/
theorem State.setReg_writesOnly (s : State) (i : RegNum) (v : Word) : WritesOnly s (s.setReg i v) i v :=
  ⟨by simp, fun _ h => s.reg_setReg_ne v h, rfl⟩

theorem State.port_modPort (s : State) (p q : Nat) (f : Port → Port) :
    (s.modPort p f).port q = if q = p ∧ p < 4 then f (s.port p) else s.port q :=
  getAt_modAt s.ports p q f

@[simp] theorem State.port_modPort_self (s : State) {p : Nat} (f : Port → Port) (h : p < 4) :
    (s.modPort p f).port p = f (s.port p) := by
  simp [State.port_modPort, h]

theorem State.port_modPort_ne (s : State) {p q : Nat} (f : Port → Port) (h : q ≠ p) :
    (s.modPort p f).port q = s.port q := by
  simp [State.port_modPort, h]

/-- An update of a port that exists changes that port and nothing else. -/
theorem State.modPort_portOnly (s : State) {p : Nat} (f : Port → Port) (h : p < 4) :
    PortOnly s (s.modPort p f) p (f (s.port p)) :=
  ⟨s.port_modPort_self f h, fun _ hq => s.port_modPort_ne f hq, rfl⟩

theorem State.win_modWin (s : State) (w v : Nat) (f : Window → Window) :
    (s.modWin w f).win v = if v = w ∧ w < 8 then f (s.win w) else s.win v :=
  getAt_modAt s.wins w v f

@[simp] theorem State.win_modWin_self (s : State) {w : Nat} (f : Window → Window) (h : w < 8) :
    (s.modWin w f).win w = f (s.win w) := by
  simp [State.win_modWin, h]

theorem State.win_modWin_ne (s : State) {w v : Nat} (f : Window → Window) (h : v ≠ w) :
    (s.modWin w f).win v = s.win v := by
  simp [State.win_modWin, h]

/-- An update of a window that exists changes that window and nothing else. -/
theorem State.modWin_windowOnly (s : State) {w : Nat} (f : Window → Window) (h : w < 8) :
    WindowOnly s (s.modWin w f) w (f (s.win w)) :=
  ⟨s.win_modWin_self f h, fun _ hq => s.win_modWin_ne f hq, rfl⟩

/-! ## Faults -/

/-- A fault of a command is its bit and its record. -/
theorem State.raise_eq (s : State) (f : HardFault) : s.raise f = commandFault s (bit 6 f.bitIndex) f.code := rfl

theorem State.raise_illCmd (s : State) : s.raise .illCmd = commandFault s 0b000001 1 := rfl
theorem State.raise_operand (s : State) : s.raise .operand = commandFault s 0b000010 2 := rfl
theorem State.raise_badIndex (s : State) : s.raise .badIndex = commandFault s 0b000100 3 := rfl
theorem State.raise_badAddr (s : State) : s.raise .badAddr = commandFault s 0b001000 4 := rfl
theorem State.raise_badCfg (s : State) : s.raise .badCfg = commandFault s 0b010000 5 := rfl
theorem State.raise_timing (s : State) : s.raise .timing = commandFault s 0b100000 6 := rfl
theorem State.raiseBus_eq (s : State) : s.raiseBus = faultedWith s 0b001000 4 := rfl

/-! ## Waits -/

theorem waitCondition_done (s : State) (q : Nat) : waitCondition s .done q = !s.pend.getLsbD q := rfl
theorem waitCondition_pmux (s : State) (q : Nat) : waitCondition s .pmux q = decide (s.portMuxAct = s.portMux) := rfl
theorem waitCondition_dspHold (s : State) (q : Nat) : waitCondition s .dspHold q = (s.port q).dspHold := rfl

/-- A command whose condition already holds goes on at once. -/
theorem State.hold_of_condition (s : State) {kind : WaitKind} {q : Nat} (rest : Resume)
    (h : waitCondition s kind q = true) : s.hold kind q rest = s.finish true rest := by
  simp [State.hold, h]

/-- Otherwise it waits, and nothing but the wait state changes. -/
theorem State.hold_of_not_condition (s : State) {kind : WaitKind} {q : Nat} (rest : Resume)
    (h : waitCondition s kind q = false) : s.hold kind q rest = { s with wait := .waiting kind q rest } := by
  simp [State.hold, h]

@[simp] theorem State.finish_pendbits (s : State) (b : Bool) (rd : RegNum) (p : Nat) :
    s.finish b (.pendbits rd p) = s.setReg rd ((otherPending s p).setWidth 32) := rfl
@[simp] theorem State.finish_pmuxwait (s : State) (b : Bool) : s.finish b .pmuxwait = s := rfl
@[simp] theorem State.finish_fswait_true (s : State) (p : Nat) :
    s.finish true (.fswait true p) = s.modPort p fun pt => { pt with lselChg := false } := rfl
@[simp] theorem State.finish_fswait_false (s : State) (c : Bool) (p : Nat) : s.finish false (.fswait c p) = s := by
  simp [State.finish]
@[simp] theorem State.finish_fswait_plain (s : State) (b : Bool) (p : Nat) : s.finish b (.fswait false p) = s := rfl
@[simp] theorem State.finish_standby_true (s : State) (p : Nat) :
    s.finish true (.standby p) = s.modPort p fun pt => { pt with dspHold := false } := rfl
@[simp] theorem State.finish_standby_false (s : State) (p : Nat) : s.finish false (.standby p) = s := rfl

/-- Everything the rest of a waiting command can do: nothing, one register, `LSEL_CHG` or `DSPHOLD` of one port. -/
theorem State.finish_cases (s : State) (b : Bool) (rest : Resume) :
    s.finish b rest = s ∨ (∃ rd v, s.finish b rest = s.setReg rd v) ∨
      (∃ p, s.finish b rest = s.modPort p fun pt => { pt with lselChg := false }) ∨
      (∃ p, s.finish b rest = s.modPort p fun pt => { pt with dspHold := false }) := by
  cases rest with
  | pendbits rd p => exact .inr (.inl ⟨rd, _, rfl⟩)
  | pmuxwait => exact .inl rfl
  | fswait c p =>
    by_cases h : (c && b) = true
    · exact .inr (.inr (.inl ⟨p, by simp [State.finish, h]⟩))
    · exact .inl (by simp [State.finish, h])
  | standby p =>
    cases b
    · exact .inl rfl
    · exact .inr (.inr (.inr ⟨p, rfl⟩))

theorem State.busy_eq_false_iff (s : State) : s.busy = false ↔ s.wait = .idle := by
  unfold State.busy; split <;> simp_all

theorem State.busy_eq_true_iff (s : State) : s.busy = true ↔ s.wait ≠ .idle := by
  unfold State.busy; split <;> simp_all

/-! ## Indices -/

theorem State.withPort_of_lt (s : State) {idx : Index} (run : Nat → State) (h : idx.toNat < s.profile.nport) :
    s.withPort idx run = run idx.toNat := by
  simp [State.withPort, h]

theorem State.withPort_of_le (s : State) {idx : Index} (run : Nat → State) (h : s.profile.nport ≤ idx.toNat) :
    s.withPort idx run = s.raise .badIndex := by
  simp [State.withPort, Nat.not_lt.mpr h]

theorem State.withWindow_of_lt (s : State) {idx : Index} (run : Nat → State) (h : idx.toNat < s.profile.nwin) :
    s.withWindow idx run = run idx.toNat := by
  simp [State.withWindow, h]

theorem State.withWindow_of_le (s : State) {idx : Index} (run : Nat → State) (h : s.profile.nwin ≤ idx.toNat) :
    s.withWindow idx run = s.raise .badIndex := by
  simp [State.withWindow, Nat.not_lt.mpr h]

theorem Profile.nport_le_four {c : Profile} (h : c.WellFormed) : c.nport ≤ 4 := h.1.2
theorem Profile.nwin_le_eight {c : Profile} (h : c.WellFormed) : c.nwin ≤ 8 := h.2.1.2
theorem Profile.nlayer_eq_nwin {c : Profile} (h : c.WellFormed) : c.nlayer = c.nwin := h.2.2.1
theorem Profile.nmixer_eq_nwin {c : Profile} (h : c.WellFormed) : c.nmixer = c.nwin := h.2.2.2.1

/-- Two windows that exist have different selector codes (00 R9). -/
theorem Profile.selCode_inj {c : Profile} (h : c.WellFormed) {v w : Nat} (hv : v < c.nwin) (hw : w < c.nwin)
    (e : selCode c v = selCode c w) : v = w := by
  have hn := Profile.nwin_le_eight h
  refine h.2.2.2.2.1 v hv w hw ?_
  have hv8 : v < 8 := by omega
  have hw8 : w < 8 := by omega
  simpa [selCode, getAt, hv8, hw8] using e

/-! ## The register file -/

/-- A read answers the value of the register at the offset, if there is one that can be read. -/
theorem memRead_eq_some_iff (s : State) (addr : Offset) (v : Word) :
    memRead s addr = some v ↔ ∃ name, regAt s.profile addr = some name ∧ accessOf name ≠ .wo ∧ readReg s name = v := by
  unfold memRead; split
  · next h => simp [h]
  · next name h => by_cases hw : accessOf name = .wo <;> simp [h, hw]

theorem memRead_of_regAt {s : State} {addr : Offset} {name : RegName} (h : regAt s.profile addr = some name)
    (hw : accessOf name ≠ .wo) : memRead s addr = some (readReg s name) :=
  (memRead_eq_some_iff s addr _).mpr ⟨name, h, hw, rfl⟩

/-- A write answers the state with the register written, if there is one that can be written. -/
theorem memWrite_eq_some_iff (s : State) (addr : Offset) (v : Word) (t : State) :
    memWrite s addr v = some t ↔
      ∃ name, regAt s.profile addr = some name ∧ (accessOf name = .rw ∨ accessOf name = .w1c) ∧ writeReg s name v = t := by
  unfold memWrite; split
  · next h => simp [h]
  · next name h => by_cases hw : accessOf name = .rw ∨ accessOf name = .w1c <;> simp [h, hw]

/-- Everything a register write can do: one operand register, `ACFG`, `LOG`, one port or one window. -/
theorem writeReg_cases (s : State) (name : RegName) (v : Word) :
    writeReg s name v = s ∨ (∃ i, writeReg s name v = s.setReg i v) ∨
      writeReg s name v = { s with acfg := acfgOfWord v } ∨
      writeReg s name v = { s with log := s.log &&& ~~~(v.extractLsb' 0 3) } ∨
      (∃ p r, writeReg s name v = s.modPort p fun pt => writePort pt r v) ∨
      (∃ w r, writeReg s name v = s.modWin w fun win => writeWindow s.profile w win r v) := by
  cases name <;> first
    | exact .inl rfl
    | exact .inr (.inl ⟨_, rfl⟩)
    | exact .inr (.inr (.inl rfl))
    | exact .inr (.inr (.inr (.inl rfl)))
    | exact .inr (.inr (.inr (.inr (.inl ⟨_, _, rfl⟩))))
    | exact .inr (.inr (.inr (.inr (.inr ⟨_, _, rfl⟩))))

/-- What no write changes in a port. -/
theorem writePort_same (pt : Port) (r : PortReg) (v : Word) :
    { writePort pt r v with htotal := pt.htotal, vtotal := pt.vtotal, pclk := pt.pclk } = pt := by
  cases r <;> rfl

/-- What no write changes in a window: the active copies and the inner stage. -/
theorem writeWindow_same (c : Profile) (w : Nat) (win : Window) (r : WindowReg) (v : Word) :
    (writeWindow c w win r v).sclAct = win.sclAct ∧ (writeWindow c w win r v).clu = win.clu ∧
      (writeWindow c w win r v).cluAct = win.cluAct := by
  cases r <;> simp only [writeWindow] <;> (try split) <;> simp

/-! ## The step -/

/-- Every command answers a next state. -/
theorem exec_next (i : Instr) (s : State) : ∃ t, exec i s = .next t := by
  cases i <;> simp only [exec, execNop, execLi, execLih, execLdr, execStr, execSclmode, execPrescl, execSclfac, execSclauto,
    execChrdim, execWindis, execAssign, execPmuxwait, execDerive, execBlend, execClublend, execPendbits, execCfgdone,
    execFswait, execStandby, execEnable] <;> repeat' (first | exact ⟨_, rfl⟩ | split)

/-- What the acceptance of a word can do. -/
theorem acceptWord_cases (bits : Word) (s : State) :
    (∃ e, decode bits = .error e ∧ acceptWord bits s = .next (s.countWord.raise .illCmd)) ∨
      ∃ i, decode bits = .ok i ∧ acceptWord bits s = exec i s.countWord := by
  unfold acceptWord
  cases h : decode bits with
  | error e => exact .inl ⟨e, rfl, rfl⟩
  | ok i => exact .inr ⟨i, rfl, rfl⟩

/-- What a bus write can do. -/
theorem busWrite_cases (addr : Offset) (v : Word) (s : State) :
    (addr = cmdOffset ∧ busWrite addr v s = acceptWord v s) ∨
      (addr ≠ cmdOffset ∧ memWrite s addr v = none ∧ busWrite addr v s = .next s.raiseBus) ∨
      (addr ≠ cmdOffset ∧ ∃ t, memWrite s addr v = some t ∧ busWrite addr v s = .next t) := by
  unfold busWrite
  by_cases h : addr = cmdOffset
  · exact .inl ⟨h, by simp [h]⟩
  · cases hm : memWrite s addr v with
    | none => exact .inr (.inl ⟨h, rfl, by simp [h]⟩)
    | some t => exact .inr (.inr ⟨h, t, rfl, by simp [h]⟩)

/-- Everything a step can do, by the agent whose turn it is. -/
theorem step_cases {s t : State} (h : step s = .next t) :
    s.profile.WellFormed ∧
      ((nextAgent s = .host ∧ s.hostOps = [] ∧ t = s.turned) ∨
        (∃ addr rest, HostNext s (.busRead addr) rest ∧ t = busRead addr (s.taken rest)) ∨
        (∃ addr v rest, HostNext s (.busWrite addr v) rest ∧ s.wait ≠ .idle ∧ t = s.turned) ∨
        (∃ addr v rest, HostNext s (.busWrite addr v) rest ∧ s.wait = .idle ∧
          busWrite addr v (s.taken rest) = .next t) ∨
        (∃ p, nextAgent s = .lineTick p ∧ t = s.turned.lineTick p) ∨
        (∃ p, nextAgent s = .dspHold p ∧ t = s.turned.dspHoldEvent p) ∨
        (nextAgent s = .timeout ∧ t = s.turned.timeoutEvent) ∨
        (nextAgent s = .resume ∧ t = s.turned.resumeEvent) ∨
        (nextAgent s = .reset ∧ t = s.turned.resetEvent)) := by
  unfold step at h
  by_cases hw : s.profile.WellFormed
  · rw [if_pos hw] at h
    refine ⟨hw, ?_⟩
    cases ha : nextAgent s with
    | host =>
      simp only [ha, turn, hostTurn] at h
      split at h
      · next hops =>
        injection h with h
        exact .inl ⟨rfl, hops, h.symm⟩
      · next addr rest hops =>
        injection h with h
        exact .inr (.inl ⟨addr, rest, ⟨hw, ha, hops⟩, h.symm⟩)
      · next addr v rest hops =>
        split at h
        · next hb =>
          injection h with h
          exact .inr (.inr (.inl ⟨addr, v, rest, ⟨hw, ha, hops⟩, (State.busy_eq_true_iff _).mp hb, h.symm⟩))
        · next hb =>
          refine .inr (.inr (.inr (.inl ⟨addr, v, rest, ⟨hw, ha, hops⟩, ?_, h⟩)))
          exact (State.busy_eq_false_iff s).mp (Bool.eq_false_iff.mpr hb)
    | lineTick p =>
      simp only [ha, turn] at h
      injection h with h
      exact .inr (.inr (.inr (.inr (.inl ⟨p, rfl, h.symm⟩))))
    | dspHold p =>
      simp only [ha, turn] at h
      injection h with h
      exact .inr (.inr (.inr (.inr (.inr (.inl ⟨p, rfl, h.symm⟩)))))
    | timeout =>
      simp only [ha, turn] at h
      injection h with h
      exact .inr (.inr (.inr (.inr (.inr (.inr (.inl ⟨rfl, h.symm⟩))))))
    | resume =>
      simp only [ha, turn] at h
      injection h with h
      exact .inr (.inr (.inr (.inr (.inr (.inr (.inr (.inl ⟨rfl, h.symm⟩)))))))
    | reset =>
      simp only [ha, turn] at h
      injection h with h
      exact .inr (.inr (.inr (.inr (.inr (.inr (.inr (.inr ⟨rfl, h.symm⟩)))))))
  · rw [if_neg hw] at h
    cases h

/-- With a profile of 00 R9 every step answers a next state. -/
theorem step_next {s : State} (h : s.profile.WellFormed) : ∃ t, step s = .next t := by
  unfold step
  rw [if_pos h]
  cases nextAgent s <;> simp only [turn] <;> try exact ⟨_, rfl⟩
  unfold hostTurn
  split
  · exact ⟨_, rfl⟩
  · exact ⟨_, rfl⟩
  · split
    · exact ⟨_, rfl⟩
    · next addr v rest _ _ =>
      rcases busWrite_cases addr v { s with schedule := s.schedule.tail, hostOps := rest } with ⟨_, hb⟩ | ⟨_, _, hb⟩ | ⟨_, u, _, hb⟩
      · rcases acceptWord_cases v { s with schedule := s.schedule.tail, hostOps := rest } with ⟨_, _, ha⟩ | ⟨i, _, ha⟩
        · exact ⟨_, hb.trans ha⟩
        · obtain ⟨u, hu⟩ := exec_next i (State.countWord { s with schedule := s.schedule.tail, hostOps := rest })
          exact ⟨u, hb.trans (ha.trans hu)⟩
      · exact ⟨_, hb⟩
      · exact ⟨u, hb⟩

end Sys2Proof.Machine
end

