-- ==== Sys2Proof/Laws/Layers.lean ====
section
/-! SUPPORT. What each step of ASSIGN does (42_layer_assignment.md R211 to R215). -/

namespace Sys2Proof.Machine

/-! ## Step 1, migration -/

/-- The loop of `migrate` over the other ports, for one window: it leaves every other mask that held the window. -/
theorem clearOthers_spec (P w : Nat) (ports : Vector Port 4) (lost : BitVec 4) (n : Nat) (hn : n ≤ 4) :
    let r := (List.range n).foldl
      (fun (a : Vector Port 4 × BitVec 4) q =>
        if q ≠ P ∧ (getAt a.1 q).winMask.getLsbD w then
          (modAt a.1 q fun pt => { pt with winMask := pt.winMask &&& ~~~(bit 8 w) }, a.2 ||| bit 4 q)
        else a) (ports, lost)
    (∀ q, getAt r.1 q =
      if q < n ∧ q ≠ P ∧ (getAt ports q).winMask.getLsbD w = true then
        { getAt ports q with winMask := (getAt ports q).winMask &&& ~~~(bit 8 w) }
      else getAt ports q) ∧
    (∀ q, r.2.getLsbD q = (lost.getLsbD q || decide (q < n ∧ q ≠ P ∧ (getAt ports q).winMask.getLsbD w = true))) := by
  induction n with
  | zero => simp
  | succ n ih =>
    obtain ⟨ih1, ih2⟩ := ih (by omega)
    rw [List.range_succ, List.foldl_append]
    simp only [List.foldl_cons, List.foldl_nil]
    generalize hr : (List.range n).foldl _ (ports, lost) = r at ih1 ih2 ⊢
    have hn' : getAt r.1 n = getAt ports n := by rw [ih1]; simp
    rw [hn']
    by_cases hc : n ≠ P ∧ (getAt ports n).winMask.getLsbD w = true
    · rw [if_pos hc]
      refine ⟨fun q => ?_, fun q => ?_⟩
      · by_cases hq : q = n
        · subst hq
          rw [getAt_modAt_self _ _ (by omega), hn']
          simp [hc]
        · rw [getAt_modAt_ne _ _ hq, ih1]
          have : (q < n + 1) ↔ q < n := by omega
          simp [this]
      · rw [BitVec.getLsbD_or, ih2, getLsbD_bit]
        by_cases hq : q = n
        · subst hq
          have : q < 4 := by omega
          simp [hc, this]
        · have : (q < n + 1) ↔ q < n := by omega
          simp [this, hq]
    · rw [if_neg hc]
      refine ⟨fun q => ?_, fun q => ?_⟩
      · rw [ih1]
        by_cases hq : q = n
        · subst hq
          simp [hc]
        · have : (q < n + 1) ↔ q < n := by omega
          simp [this]
      · rw [ih2]
        by_cases hq : q = n
        · subst hq
          simp only [Nat.lt_irrefl, false_and, decide_false, Bool.or_false, Nat.lt_succ_self, true_and]
          simp [hc]
        · have : (q < n + 1) ↔ q < n := by omega
          simp [this]

/-- `migrate` claims window `w` for `P`: it is enabled for `P` and not in `P`'s mask. -/
def claims (wins : Vector Window 8) (ports : Vector Port 4) (P w : Nat) : Bool :=
  (getAt wins w).en && namesPort (getAt wins w).vpMask P && !(getAt ports P).winMask.getLsbD w

/-- One window of `migrate`. -/
theorem migrateWindow_spec (c : Profile) (wins : Vector Window 8) (P w : Nat) (acc : Vector Port 4 × BitVec 4)
    (hc : c.nport ≤ 4) (hP : P < c.nport) (hw : w < 8) :
    let r := migrateWindow c wins P acc w
    (∀ q, { getAt r.1 q with winMask := (getAt acc.1 q).winMask } = getAt acc.1 q) ∧
    (∀ q v, v < 8 → (getAt r.1 q).winMask.getLsbD v =
      if v = w ∧ q < c.nport ∧ claims wins acc.1 P w = true then decide (q = P) else (getAt acc.1 q).winMask.getLsbD v) ∧
    (∀ q, r.2.getLsbD q =
      (acc.2.getLsbD q || (decide (q < c.nport ∧ q ≠ P) && claims wins acc.1 P w && (getAt acc.1 q).winMask.getLsbD w))) := by
  unfold migrateWindow
  by_cases hcl : claims wins acc.1 P w = true
  · have hcl' := hcl
    unfold claims at hcl'
    rw [if_pos hcl']
    obtain ⟨h1, h2⟩ := clearOthers_spec P w acc.1 acc.2 c.nport hc
    simp only at h1 h2 ⊢
    generalize (List.range c.nport).foldl _ (acc.1, acc.2) = r at h1 h2 ⊢
    have hP4 : P < 4 := by omega
    have hPr : getAt r.1 P = getAt acc.1 P := by rw [h1]; simp
    refine ⟨fun q => ?_, fun q v hv => ?_, fun q => ?_⟩
    · by_cases hq : q = P
      · subst hq
        rw [getAt_modAt_self _ _ hP4, hPr]
      · rw [getAt_modAt_ne _ _ hq, h1]
        split <;> rfl
    · by_cases hq : q = P
      · subst hq
        rw [getAt_modAt_self _ _ hP4, hPr]
        simp only [BitVec.getLsbD_or, getLsbD_bit]
        by_cases hvw : v = w
        · simp [hvw, hP, hcl, hw]
        · simp [hvw]
      · rw [getAt_modAt_ne _ _ hq, h1]
        by_cases hvw : v = w
        · subst hvw
          by_cases hqn : q < c.nport
          · by_cases hb : (getAt acc.1 q).winMask.getLsbD v = true
            · simp [hqn, hq, hb, hcl, getLsbD_bit, hv]
            · simp [hqn, hq, hb, hcl]
          · simp [hqn]
        · rw [if_neg (c := v = w ∧ q < c.nport ∧ claims wins acc.1 P w = true) (fun h => hvw h.1)]
          split
          · simp only [BitVec.getLsbD_and, BitVec.getLsbD_not, getLsbD_bit]
            simp [hvw, hv]
          · rfl
    · rw [h2, hcl]
      by_cases hb : (getAt acc.1 q).winMask.getLsbD w = true <;> simp [hb]
  · have hcl' := hcl
    unfold claims at hcl'
    rw [if_neg hcl']
    simp [hcl]

/-- Step 1, `migrate(P)` (42 R211): exactly the claimed windows move, every other field of a port stays, and `lost` names
the ports that lost a window. -/
theorem migrate_spec (c : Profile) (wins : Vector Window 8) (P : Nat) (ports : Vector Port 4)
    (hc : c.nport ≤ 4) (hP : P < c.nport) (hn : c.nwin ≤ 8) :
    let r := migrate c wins P ports
    (∀ q, { getAt r.1 q with winMask := (getAt ports q).winMask } = getAt ports q) ∧
    (∀ q v, v < 8 → (getAt r.1 q).winMask.getLsbD v =
      if v < c.nwin ∧ q < c.nport ∧ claims wins ports P v = true then decide (q = P)
      else (getAt ports q).winMask.getLsbD v) ∧
    (∀ q, r.2.getLsbD q = true ↔
      q < c.nport ∧ q ≠ P ∧ ∃ w < c.nwin, claims wins ports P w = true ∧ (getAt ports q).winMask.getLsbD w = true) := by
  unfold migrate
  generalize hm : c.nwin = n at hn ⊢
  clear hm
  induction n with
  | zero => simp
  | succ n ih =>
    obtain ⟨ih1, ih2, ih3⟩ := ih (by omega)
    rw [List.range_succ, List.foldl_append]
    simp only [List.foldl_cons, List.foldl_nil]
    generalize (List.range n).foldl (migrateWindow c wins P) (ports, 0) = r at ih1 ih2 ih3 ⊢
    obtain ⟨h1, h2, h3⟩ := migrateWindow_spec c wins P n r hc hP (by omega)
    simp only at h1 h2 h3 ih1 ih2 ih3 ⊢
    have hcl : claims wins r.1 P n = claims wins ports P n := by
      unfold claims
      rw [ih2 P n (by omega)]
      simp
    refine ⟨fun q => ?_, fun q v hv => ?_, fun q => ?_⟩
    · have e1 := h1 q
      have e2 := ih1 q
      rw [← e2]
      have := congrArg (fun pt : Port => { pt with winMask := (getAt ports q).winMask }) e1
      simpa using this
    · rw [h2 q v hv, hcl, ih2 q v hv]
      by_cases hvn : v = n
      · subst hvn
        by_cases hx : q < c.nport ∧ claims wins ports P v = true
        · simp [hx]
        · have : ¬ (v < v + 1 ∧ q < c.nport ∧ claims wins ports P v = true) := fun h => hx h.2
          rw [if_neg (by simpa using hx), if_neg (by simp), if_neg this]
      · have : (v < n + 1) ↔ v < n := by omega
        simp [hvn, this]
    · rw [h3 q, hcl, ih2 q n (by omega)]
      simp only [Bool.or_eq_true, ih3 q, Bool.and_eq_true, decide_eq_true_eq, Nat.lt_irrefl, false_and, if_false]
      constructor
      · rintro (⟨a, b, w, hw, hx⟩ | ⟨⟨⟨a, b⟩, hx⟩, hy⟩)
        · exact ⟨a, b, w, by omega, hx⟩
        · exact ⟨a, b, n, by omega, hx, hy⟩
      · rintro ⟨a, b, w, hw, hx, hy⟩
        by_cases hwn : w = n
        · subst hwn
          exact .inr ⟨⟨⟨a, b⟩, hx⟩, hy⟩
        · exact .inl ⟨a, b, w, by omega, hx, hy⟩

/-! ## Step 2, counts -/

/-- Step 2, `recount(P)` (42 R212): the ports that exist get their counts, starts and range-change flags. -/
theorem getAt_recount (c : Profile) (P : Nat) (lost : BitVec 4) (ports : Vector Port 4) (q : Nat) :
    getAt (recount c P lost ports) q =
      if q < c.nport ∧ q < 4 then
        { getAt ports q with
          wcnt := BitVec.ofNat 4 (windowCount ports q)
          start := BitVec.ofNat 4 (startOf ports q)
          rangeChg := if q = P then false
            else (getAt ports q).rangeChg || BitVec.ofNat 4 (startOf ports q) != (getAt ports q).start || lost.getLsbD q }
      else getAt ports q := by
  unfold recount
  exact getAt_foldl_range (fun q pt =>
    { pt with
      wcnt := BitVec.ofNat 4 (windowCount ports q)
      start := BitVec.ofNat 4 (startOf ports q)
      rangeChg := if q = P then false
        else pt.rangeChg || BitVec.ofNat 4 (startOf ports q) != pt.start || lost.getLsbD q }) c.nport ports q

/-- Step 5, `portmux()` (42 R215), field by field. -/
theorem getAt_portMuxOf (c : Profile) (ports : Vector Port 4) (mux : Vector (BitVec 4) 4) (q : Nat) :
    getAt (portMuxOf c ports mux) q =
      if q < c.nport ∧ q < 4 then
        (if (getAt ports q).wcnt = 0 then 8#4 else (getAt ports q).start + (getAt ports q).wcnt - 1)
      else getAt mux q :=
  getAt_foldl_setAt _ c.nport mux q

/-! ## Step 3, the sort -/

theorem mem_sortActive (c : Profile) (wins : Vector Window 8) (ports : Vector Port 4) (P w : Nat) :
    w ∈ sortActive c wins ports P ↔ w < c.nwin ∧ activeOn wins ports P w = true := by
  unfold sortActive
  rw [List.mem_insertionSort, List.mem_filter, List.mem_range]

theorem nodup_sortActive (c : Profile) (wins : Vector Window 8) (ports : Vector Port 4) (P : Nat) :
    (sortActive c wins ports P).Nodup := by
  unfold sortActive
  rw [List.Perm.nodup_iff (List.perm_insertionSort _ _)]
  exact List.nodup_range.filter _

/-- Step 3, `sort_active(P)` (42 R213): rising in the pair of z-order and index, strictly because no window stands twice. -/
theorem sortActive_sorted (c : Profile) (wins : Vector Window 8) (ports : Vector Port 4) (P : Nat) :
    (sortActive c wins ports P).Pairwise (fun v w =>
      (getAt wins v).zpos.toNat < (getAt wins w).zpos.toNat ∨ ((getAt wins v).zpos = (getAt wins w).zpos ∧ v < w)) := by
  have htotal : Std.Total (below wins) := ⟨fun v w => by
    unfold below
    rcases Nat.lt_trichotomy (getAt wins v).zpos.toNat (getAt wins w).zpos.toNat with h | h | h
    · exact .inl (.inl h)
    · have e := BitVec.eq_of_toNat_eq h
      rcases Nat.le_total v w with h' | h'
      · exact .inl (.inr ⟨e, h'⟩)
      · exact .inr (.inr ⟨e.symm, h'⟩)
    · exact .inr (.inl h)⟩
  have htrans : IsTrans Nat (below wins) := ⟨fun u v w => by
    unfold below
    rintro (h1 | ⟨h1, h1'⟩) (h2 | ⟨h2, h2'⟩)
    · exact .inl (h1.trans h2)
    · exact .inl (h2 ▸ h1)
    · exact .inl (h1 ▸ h2)
    · exact .inr ⟨h1.trans h2, h1'.trans h2'⟩⟩
  have hs : (sortActive c wins ports P).Pairwise (below wins) := List.pairwise_insertionSort (below wins) _
  have hn := nodup_sortActive c wins ports P
  refine (hs.and hn).imp ?_
  rintro v w ⟨h | ⟨h, h'⟩, hne⟩
  · exact .inl h
  · exact .inr ⟨h, lt_of_le_of_ne h' hne⟩

/-! ## Step 4, the paired swaps -/

/-- The layer of a window, where the selector is sound (10 R42). -/
theorem layerOf_spec {c : Profile} {sel : Vector (BitVec 4) 8} (h : SelectorSound c sel) {w : Nat} (hw : w < c.nwin) :
    ∃ l < c.nlayer, layerOf c sel w = some l ∧ getAt sel l = selCode c w ∧
      ∀ l' < c.nlayer, getAt sel l' = selCode c w → l' = l := by
  obtain ⟨l, hl, he, hu⟩ := h.2 w hw
  refine ⟨l, hl, ?_, he, hu⟩
  unfold layerOf
  cases hf : (List.range c.nlayer).find? (fun l => getAt sel l == selCode c w) with
  | none =>
    rw [List.find?_eq_none] at hf
    exact absurd (by simpa using he) (hf l (List.mem_range.mpr hl))
  | some l' =>
    have h1 := List.find?_some hf
    have h2 := List.mem_range.mp (List.mem_of_find?_eq_some hf)
    rw [hu l' h2 (by simpa using h1)]

/-- `swap_assign(L, w)` (42 R214): layer `L` gets window `w`, the layer vacated gets what stood on `L`, every other layer
keeps its window. -/
theorem swapAssign_spec {c : Profile} {sel : Vector (BitVec 4) 8} (h : SelectorSound c sel) (hn : c.nlayer ≤ 8)
    {L w : Nat} (hL : L < c.nlayer) (hw : w < c.nwin) :
    ∃ L' < c.nlayer, getAt sel L' = selCode c w ∧
      ∀ l, getAt (swapAssign c sel L w) l =
        if l = L then selCode c w else if l = L' then getAt sel L else getAt sel l := by
  obtain ⟨L', hL', hf, he, hu⟩ := layerOf_spec h hw
  refine ⟨L', hL', he, fun l => ?_⟩
  unfold swapAssign
  rw [hf]
  have hL8 : L < 8 := by omega
  have hL'8 : L' < 8 := by omega
  by_cases hne : L' = L
  · subst hne
    simp only [ne_eq, not_true_eq_false, if_false]
    by_cases hl : l = L'
    · simp [hl, he]
    · simp [hl]
  · simp only [ne_eq, hne, not_false_eq_true, if_true]
    rw [getAt_setAt, getAt_setAt]
    by_cases hl : l = L
    · have : ¬ l = L' := fun h => hne (h ▸ hl)
      simp [hl, hL8, Ne.symm hne]
    · by_cases hl' : l = L'
      · simp [hl', hL'8, hne]
      · simp [hl, hl']

/-- A paired swap keeps the selector a permutation (42 R214). -/
theorem swapAssign_sound {c : Profile} {sel : Vector (BitVec 4) 8} (hc : c.WellFormed) (h : SelectorSound c sel)
    {L w : Nat} (hL : L < c.nlayer) (hw : w < c.nwin) : SelectorSound c (swapAssign c sel L w) := by
  have hn : c.nlayer ≤ 8 := by
    have := Profile.nwin_le_eight hc
    have := Profile.nlayer_eq_nwin hc
    omega
  obtain ⟨L', hL', he, hs⟩ := swapAssign_spec h hn hL hw
  have hinj : ∀ l < c.nlayer, ∀ l' < c.nlayer, getAt sel l = getAt sel l' → l = l' := by
    intro l hl l' hl' e
    obtain ⟨v, hv, hve⟩ := h.1 l hl
    obtain ⟨m, hm, _, hmu⟩ := h.2 v hv
    rw [hmu l hl hve, hmu l' hl' (e ▸ hve)]
  constructor
  · intro l hl
    rw [hs]
    split
    · exact ⟨w, hw, rfl⟩
    · split
      · exact h.1 L hL
      · exact h.1 l hl
  · intro v hv
    by_cases hvw : v = w
    · subst hvw
      refine ⟨L, hL, by rw [hs]; simp, fun l' hl' e => ?_⟩
      by_contra hne
      rw [hs, if_neg hne] at e
      split at e
      · next h' =>
        exact hne (h'.trans (hinj L' hL' L hL (he.trans e.symm)))
      · next h' =>
        exact h' (hinj l' hl' L' hL' (e.trans he.symm))
    · obtain ⟨lv, hlv, hev, huv⟩ := h.2 v hv
      have hcode : selCode c v ≠ selCode c w := fun e => hvw (Profile.selCode_inj hc hv hw e)
      by_cases h1 : lv = L
      · refine ⟨L', hL', ?_, fun l' hl' e => ?_⟩
        · rw [hs]
          by_cases hLL : L' = L
          · exact absurd (hev.symm.trans (h1 ▸ hLL ▸ he)) hcode
          · rw [if_neg hLL, if_pos rfl, ← h1, hev]
        · rw [hs] at e
          split at e
          · exact absurd e.symm hcode
          · split at e
            · next h' => exact h'
            · next hl1 _ => exact absurd (h1 ▸ huv l' hl' e) hl1
      · have h2 : lv ≠ L' := fun e => hcode (hev.symm.trans (e ▸ he))
        refine ⟨lv, hlv, by rw [hs, if_neg h1, if_neg h2, hev], fun l' hl' e => ?_⟩
        rw [hs] at e
        split at e
        · exact absurd e.symm hcode
        · split at e
          · exact absurd (huv L hL e).symm h1
          · exact huv l' hl' e

/-- Step 4 (42 R210, R214): after the swaps `act[z]` sits on layer `start + z`, the selector is still a permutation, and a
layer whose window is not in `act` and that lies outside the layers filled keeps its window. -/
theorem placeWindows_spec {c : Profile} (hc : c.WellFormed) (start : Nat) (act : List Nat) (sel : Vector (BitVec 4) 8)
    (h : SelectorSound c sel) (hw : ∀ w ∈ act, w < c.nwin) (hnd : act.Nodup) (hlen : start + act.length ≤ c.nlayer) :
    let r := placeWindows c start act sel
    SelectorSound c r ∧
    (∀ z w, act[z]? = some w → getAt r (start + z) = selCode c w) ∧
    (∀ l, ¬ (start ≤ l ∧ l < start + act.length) → (∀ w ∈ act, getAt sel l ≠ selCode c w) → getAt r l = getAt sel l) := by
  have hn : c.nlayer ≤ 8 := by
    have := Profile.nwin_le_eight hc
    have := Profile.nlayer_eq_nwin hc
    omega
  unfold placeWindows
  induction act using List.reverseRecOn with
  | nil => exact ⟨h, by simp, fun _ _ _ => rfl⟩
  | append_singleton act w ih =>
    have hlen' : start + act.length + 1 ≤ c.nlayer := by simpa [Nat.add_assoc] using hlen
    have hwn : w < c.nwin := hw w (by simp)
    have hnd' : act.Nodup ∧ w ∉ act := by
      rw [List.nodup_append] at hnd
      exact ⟨hnd.1, fun hmem => hnd.2.2 w hmem w (by simp) rfl⟩
    obtain ⟨ih1, ih2, ih3⟩ := ih (fun v hv => hw v (by simp [hv])) hnd'.1 (by omega)
    rw [List.zipIdx_append, List.foldl_append]
    simp only [List.zipIdx_singleton, List.foldl_cons, List.foldl_nil, Nat.zero_add]
    generalize act.zipIdx.foldl _ sel = r at ih1 ih2 ih3 ⊢
    have hL : start + act.length < c.nlayer := by omega
    obtain ⟨L', hL', he, hs⟩ := swapAssign_spec ih1 hn hL hwn
    refine ⟨swapAssign_sound hc ih1 hL hwn, fun z v hz => ?_, fun l hl hv => ?_⟩
    · rw [hs]
      by_cases hz' : z = act.length
      · subst hz'
        simp at hz
        simp [hz]
      · have hzlt : z < act.length := by
          have := (List.getElem?_eq_some_iff.mp hz).1
          simp at this
          omega
        have hzv : act[z]? = some v := by
          rwa [List.getElem?_append_left hzlt] at hz
        have hvmem : v ∈ act := List.mem_of_getElem? hzv
        have hvn : v < c.nwin := hw v (by simp [hvmem])
        have h1 : start + z ≠ start + act.length := by omega
        have h2 : start + z ≠ L' := by
          intro e
          have := ih2 z v hzv
          rw [e, he] at this
          exact hnd'.2 (Profile.selCode_inj hc hwn hvn this ▸ hvmem)
        rw [if_neg h1, if_neg h2]
        exact ih2 z v hzv
    · have hl' : ¬ (start ≤ l ∧ l < start + act.length) := by
        intro hh
        apply hl
        simp
        omega
      have hl2 : l ≠ start + act.length := by
        intro e
        apply hl
        simp
        omega
      have hkeep := ih3 l hl' (fun v hvm => hv v (by simp [hvm]))
      rw [hs, if_neg hl2]
      by_cases e : l = L'
      · exfalso
        apply hv w (by simp)
        rw [← hkeep, e, he]
      · rw [if_neg e, hkeep]

end Sys2Proof.Machine
end

