-- ==== Sys2Proof/Laws/Blend.lean ====
section
/-! SUPPORT. What the shared operations of the blend unit write (43_blend.md R260, R268, R269), and which window stands on a
layer. -/

namespace Sys2Proof.Machine

/-- A slot after `write_slot`: its words, its owner, and its active words as before. -/
def MixSlot.written (sl : MixSlot) (P : Nat) (words : BlendWords) : MixSlot :=
  { sl with valid := true, owner := BitVec.ofNat 2 P, words := words }

@[simp] theorem MixSlot.written_valid (sl : MixSlot) (P : Nat) (b : BlendWords) : (sl.written P b).valid = true := rfl
@[simp] theorem MixSlot.written_owner (sl : MixSlot) (P : Nat) (b : BlendWords) :
    (sl.written P b).owner = BitVec.ofNat 2 P := rfl
@[simp] theorem MixSlot.written_words (sl : MixSlot) (P : Nat) (b : BlendWords) : (sl.written P b).words = b := rfl
@[simp] theorem MixSlot.written_act (sl : MixSlot) (P : Nat) (b : BlendWords) : (sl.written P b).act = sl.act := rfl

theorem mem_slotRange (lo hi m : Nat) : m ∈ slotRange lo hi ↔ lo ≤ m ∧ m < hi := by
  unfold slotRange
  rw [List.mem_map]
  constructor
  · rintro ⟨k, hk, rfl⟩
    have := List.mem_range.mp hk
    omega
  · rintro ⟨h1, h2⟩
    exact ⟨m - lo, List.mem_range.mpr (by omega), by omega⟩

theorem nodup_slotRange (lo hi : Nat) : (slotRange lo hi).Nodup := by
  unfold slotRange
  exact List.nodup_range.map fun a b h => by simpa using h

/-- A fold of `write_slot` over distinct slots. -/
theorem getAt_foldl_writeSlot (P : Nat) (words : Nat → BlendWords) (l : List Nat) (hl : l.Nodup)
    (slots : Vector MixSlot 8) (m : Nat) :
    getAt (l.foldl (fun acc i => writeSlot acc P i (words i)) slots) m =
      if m ∈ l ∧ m < 8 then (getAt slots m).written P (words m) else getAt slots m :=
  getAt_foldl_modAt (fun i (sl : MixSlot) => sl.written P (words i)) l hl slots m

/-- The stages of `P`'s chain: one slot per layer, from `base` up. -/
theorem getAt_foldl_stages (P base n : Nat) (words : Nat → BlendWords) (slots : Vector MixSlot 8) (m : Nat) :
    getAt ((List.range n).foldl (fun acc z => writeSlot acc P (base + z) (words z)) slots) m =
      if (base ≤ m ∧ m < base + n) ∧ m < 8 then (getAt slots m).written P (words (m - base)) else getAt slots m := by
  have h : (List.range n).foldl (fun acc z => writeSlot acc P (base + z) (words z)) slots =
      ((List.range n).map (base + ·)).foldl (fun acc i => writeSlot acc P i (words (i - base))) slots := by
    rw [List.foldl_map]
    congr 1
    funext acc z
    rw [Nat.add_sub_cancel_left]
  rw [h, getAt_foldl_writeSlot P (fun i => words (i - base)) _
    (List.nodup_range.map fun a b h => by simpa using h)]
  have : m ∈ (List.range n).map (base + ·) ↔ base ≤ m ∧ m < base + n := by
    have := mem_slotRange base (base + n) m
    unfold slotRange at this
    rwa [Nat.add_sub_cancel_left] at this
  simp only [this]

/-- Every slot after BLEND `P`, where the range of `P` lies below the slots above all ranges (43 R271). -/
theorem blend_slot (s : State) (P m : Nat)
    (h : (s.port P).start.toNat + (s.port P).wcnt.toNat ≤ usedSlots s) :
    let base := (s.port P).start.toNat
    let n := (s.port P).nrLayers.toNat
    let c := (s.port P).wcnt.toNat
    (s.blend P).slot m =
      if ((base + n ≤ m ∧ m < base + c) ∨ (usedSlots s ≤ m ∧ m < s.profile.nmixer)) ∧ m < 8 then
        (s.slot m).written P (deriveWords passThrough false)
      else if (base ≤ m ∧ m < base + n) ∧ m < 8 then
        (s.slot m).written P (deriveWords (stageConfig s P (m - base)) false)
      else s.slot m := by
  have hnd : (slotRange ((s.port P).start.toNat + (s.port P).nrLayers.toNat)
        ((s.port P).start.toNat + (s.port P).wcnt.toNat) ++ slotRange (usedSlots s) s.profile.nmixer).Nodup := by
    rw [List.nodup_append]
    refine ⟨nodup_slotRange _ _, nodup_slotRange _ _, fun a ha b hb e => ?_⟩
    rw [mem_slotRange] at ha hb
    omega
  unfold State.blend State.slot
  simp only
  rw [getAt_foldl_writeSlot P (fun _ => deriveWords passThrough false) _ hnd, getAt_foldl_stages]
  simp only [List.mem_append, mem_slotRange]
  split
  · split <;> rfl
  · rfl

/-- The pass-through words (43 R268). -/
theorem passThrough_words :
    deriveWords passThrough false = ⟨0x00FF01A0, 0x00FF0060, 0x00000020, 0x00000074⟩ := by decide

/-- The window on a layer, where the selector is sound (10 R42). -/
theorem windowOn_spec {s : State} (hc : s.profile.WellFormed) {layer w : Nat} (hw : w < s.profile.nwin)
    (h : getAt s.layerSel layer = selCode s.profile w) : windowOn s layer = w := by
  unfold windowOn
  cases hf : (List.range s.profile.nwin).find? (fun v => selCode s.profile v == getAt s.layerSel layer) with
  | none =>
    rw [List.find?_eq_none] at hf
    exact absurd (by simpa using h.symm) (hf w (List.mem_range.mpr hw))
  | some v =>
    have h1 := List.find?_some hf
    have h2 := List.mem_range.mp (List.mem_of_find?_eq_some hf)
    exact Profile.selCode_inj hc h2 hw ((by simpa using h1 : selCode s.profile v = _).trans h)

end Sys2Proof.Machine
end

