-- ==== Sys2Proof/Laws/Commit.lean ====
section
/-! SUPPORT. What PENDBITS reads of another port (44_commit.md R292, R294, R321), and everything PENDBITS can do (R290). -/

namespace Sys2Proof.Machine

theorem scanCount_running {pt : Port} (h : pt.run = true) : scanCount pt = pt.vcnt.toNat := by
  unfold scanCount; rw [if_pos h]

theorem scanCount_stopped {pt : Port} (h : pt.run = false) : scanCount pt = 0 := by
  unfold scanCount; rw [h]; rfl

/-- A stopped port is never in its last eighth (44 R321). -/
theorem inLastEighth_stopped {pt : Port} (h : pt.run = false) : inLastEighth pt = false := by
  unfold inLastEighth; rw [scanCount_stopped h]; simp

/-- A stopped port has a whole frame left (44 R321). -/
theorem linesLeft_stopped {pt : Port} (h : pt.run = false) : linesLeft pt = pt.vtotal.toNat := by
  unfold linesLeft; rw [scanCount_stopped h]; split <;> omega

theorem linesLeft_eq (pt : Port) : linesLeft pt = pt.vtotal.toNat - scanCount pt := by
  unfold linesLeft; split <;> omega

theorem marginPort_cases (pt1 pt2 : Port) (o1 o2 : Nat) : marginPort pt1 pt2 o1 o2 = o1 ∨ marginPort pt1 pt2 o1 o2 = o2 := by
  unfold marginPort; split <;> split <;> simp

/-- Everything PENDBITS can do: return 0, return the other ports' bits, raise `TIMING`, or wait for a port. -/
theorem pendbits_cases (s : State) (rd : RegNum) (P : Nat) :
    s.pendbits rd P = s.setReg rd 0 ∨ s.pendbits rd P = s.setReg rd ((otherPending s P).setWidth 32) ∨
      s.pendbits rd P = s.raise .timing ∨ ∃ q, s.pendbits rd P = s.hold .done q (.pendbits rd P) := by
  unfold State.pendbits
  dsimp only
  split
  · exact .inl rfl
  split
  · exact .inl rfl
  split
  · split
    · exact .inr (.inr (.inr ⟨_, rfl⟩))
    · exact .inr (.inl rfl)
  split
  · exact .inr (.inr (.inl rfl))
  split
  · exact .inr (.inl rfl)
  · exact .inr (.inr (.inr ⟨_, rfl⟩))

end Sys2Proof.Machine
end

