-- ==== Sys2Proof/Laws/Decode.lean ====
section
/-! SUPPORT. The opcodes of 30_encoding.md R117 as the decoder reads them. -/

namespace Sys2Proof

@[simp] theorem getLsbD_fieldOf (bits : Word) (lo len j : Nat) :
    (fieldOf bits lo len).getLsbD j = (decide (j < len) && bits.getLsbD (lo + j)) := by
  simp [fieldOf]

/-- Every row is found by its opcode. -/
theorem Op.ofCode_code (op : Op) : Op.ofCode op.code = some op := by
  cases op <;> decide

/-- The row an opcode finds has that opcode. -/
theorem Op.code_of_ofCode {code : BitVec 6} {op : Op} (h : Op.ofCode code = some op) : op.code = code := by
  have := List.find?_some h
  simpa using this

/-- The mask of every row covers the opcode, and its match word holds the opcode there. -/
theorem Op.mask_covers_code (op : Op) :
    fieldOf op.maskWord 26 6 = 0x3F ∧ fieldOf op.matchWord 26 6 = op.code := by
  cases op <;> decide

/-- No opcode stands twice. -/
theorem Op.code_injective : ∀ op op' : Op, op.code = op'.code → op = op' := by
  intro op op' h
  have := Op.ofCode_code op
  rw [h, Op.ofCode_code op'] at this
  exact (Option.some.inj this).symm

end Sys2Proof
end

