-- ==== Sys2Proof/Laws/Events.lean ====
section
/-! SUPPORT. What a frame boundary copies (44_commit.md R320), and what each event can do (60_exceptions.md R351 to R355). -/

namespace Sys2Proof.Machine

/-- A slot after the copies of a frame boundary. -/
theorem latch_slot (s : State) (p m : Nat) :
    (s.latch p).slot m = if m < s.profile.nmixer ∧ m < 8 then latchSlot p (s.slot m) else s.slot m :=
  getAt_foldl_range (fun _ => latchSlot p) s.profile.nmixer s.slots m

/-- A window after the copies of a frame boundary. -/
theorem latch_win (s : State) (p w : Nat) :
    (s.latch p).win w = if w < s.profile.nwin ∧ w < 8 then latchWindow s.profile p w (s.win w) else s.win w :=
  getAt_foldl_range (fun w => latchWindow s.profile p w) s.profile.nwin s.wins w

@[simp] theorem latchSlot_valid (p : Nat) (sl : MixSlot) : (latchSlot p sl).valid = sl.valid := by
  unfold latchSlot; split <;> rfl
@[simp] theorem latchSlot_owner (p : Nat) (sl : MixSlot) : (latchSlot p sl).owner = sl.owner := by
  unfold latchSlot; split <;> rfl
@[simp] theorem latchSlot_words (p : Nat) (sl : MixSlot) : (latchSlot p sl).words = sl.words := by
  unfold latchSlot; split <;> rfl

/-- The active words of a slot after a boundary: the staged ones or as before. -/
theorem latchSlot_act (p : Nat) (sl : MixSlot) :
    (latchSlot p sl).act = if sl.valid = true ∧ sl.owner.toNat = p then sl.words else sl.act := by
  unfold latchSlot
  by_cases h : sl.valid = true ∧ sl.owner.toNat = p
  · simp [h]
  · rw [if_neg (by simpa using h), if_neg h]

/-- A boundary copies within a window and leaves its staged registers alone. -/
theorem latchWindow_same (c : Profile) (p w : Nat) (win : Window) :
    { latchWindow c p w win with sclAct := win.sclAct, cluAct := win.cluAct } = win := by
  unfold latchWindow; split <;> rfl

/-- A boundary of a port that has not committed copies nothing. -/
theorem boundary_of_not_pending (s : State) {p : Nat} (h : s.pend.getLsbD p = false) : s.boundary p = s := by
  unfold State.boundary; rw [h]; rfl

theorem boundary_of_pending (s : State) {p : Nat} (h : s.pend.getLsbD p = true) : s.boundary p = s.latch p := by
  unfold State.boundary; rw [h]; rfl

/-- Everything a line tick can do: nothing, one line more, or a wrap with its frame boundary. -/
theorem lineTick_cases (s : State) (p : Nat) :
    (¬ (p < s.profile.nport ∧ (s.port p).run = true) ∧ s.lineTick p = s) ∨
      (p < s.profile.nport ∧ (s.port p).run = true ∧ (s.port p).vcnt.toNat + 1 < (s.port p).vtotal.toNat ∧
        s.lineTick p = s.modPort p fun pt => { pt with vcnt := pt.vcnt + 1 }) ∨
      (p < s.profile.nport ∧ (s.port p).run = true ∧ (s.port p).vtotal.toNat ≤ (s.port p).vcnt.toNat + 1 ∧
        s.lineTick p = (s.modPort p fun pt => { pt with vcnt := 0 }).boundary p) := by
  unfold State.lineTick
  by_cases h : p < s.profile.nport ∧ (s.port p).run = true
  · rw [if_pos h]
    by_cases hv : (s.port p).vtotal.toNat ≤ (s.port p).vcnt.toNat + 1
    · exact .inr (.inr ⟨h.1, h.2, hv, by rw [if_pos hv]⟩)
    · exact .inr (.inl ⟨h.1, h.2, by omega, by rw [if_neg hv]⟩)
  · exact .inl ⟨h, by rw [if_neg h]⟩

/-- Everything the dsp-hold event can do. -/
theorem dspHoldEvent_cases (s : State) (p : Nat) :
    (¬ (p < s.profile.nport ∧ (s.port p).stby = true ∧ (s.port p).run = true) ∧ s.dspHoldEvent p = s) ∨
      (p < s.profile.nport ∧ (s.port p).stby = true ∧ (s.port p).run = true ∧
        s.dspHoldEvent p = s.modPort p fun pt => { pt with run := false, dspHold := true }) := by
  unfold State.dspHoldEvent
  by_cases h : p < s.profile.nport ∧ (s.port p).stby = true ∧ (s.port p).run = true
  · exact .inr ⟨h.1, h.2.1, h.2.2, by rw [if_pos h]⟩
  · exact .inl ⟨h, by rw [if_neg h]⟩

/-- Everything the timeout can do. -/
theorem timeoutEvent_cases (s : State) :
    (s.wait = .idle ∧ s.timeoutEvent = s) ∨
      ∃ kind q rest, s.wait = .waiting kind q rest ∧
        s.timeoutEvent = State.finish { s with wait := .idle, log := s.log ||| logBit kind } false rest := by
  unfold State.timeoutEvent
  split
  · next h => exact .inl ⟨h, rfl⟩
  · next kind q rest h => exact .inr ⟨kind, q, rest, h, rfl⟩

/-- Everything the block's own step can do. -/
theorem resumeEvent_cases (s : State) :
    (s.resumeEvent = s ∧
      (s.wait = .idle ∨ ∃ kind q rest, s.wait = .waiting kind q rest ∧ waitCondition s kind q = false)) ∨
      ∃ kind q rest, s.wait = .waiting kind q rest ∧ waitCondition s kind q = true ∧
        s.resumeEvent = State.finish { s with wait := .idle } true rest := by
  unfold State.resumeEvent
  split
  · next h => exact .inl ⟨rfl, .inl h⟩
  · next kind q rest h =>
    by_cases hc : waitCondition s kind q = true
    · exact .inr ⟨kind, q, rest, h, hc, by rw [if_pos hc]⟩
    · exact .inl ⟨by rw [if_neg hc], .inr ⟨kind, q, rest, h, by simpa using hc⟩⟩

end Sys2Proof.Machine
end

