-- ==== Sys2Proof/Laws/PerInstr.lean ====
section
/-! SUPPORT. For every instruction: its encoding is a word of its row of 30_encoding.md R117, so that the masks and the formats
agree. One lemma per constructor. -/

namespace Sys2Proof.Laws.EncodeOpcode

open Sys2Proof

/-- The encoding of `i`, masked by its row, is the match word of its row. -/
def Statement (i : Instr) : Prop := encode i &&& i.op.maskWord = i.op.matchWord

theorem nop : Statement .nop := by
  unfold Statement; decide

theorem li (rd : RegNum) (imm : BitVec 16) : Statement (.li rd imm) := by
  apply BitVec.eq_of_getLsbD_eq
  intro j hj
  simp only [encode, formatI, Instr.op, Op.code, Op.maskWord, Op.matchWord, BitVec.getLsbD_and,
    BitVec.getLsbD_append]
  interval_cases j <;> simp

theorem lih (rd : RegNum) (imm : BitVec 16) : Statement (.lih rd imm) := by
  apply BitVec.eq_of_getLsbD_eq
  intro j hj
  simp only [encode, formatI, Instr.op, Op.code, Op.maskWord, Op.matchWord, BitVec.getLsbD_and,
    BitVec.getLsbD_append]
  interval_cases j <;> simp

theorem ldr (rd : RegNum) (off : Offset) : Statement (.ldr rd off) := by
  apply BitVec.eq_of_getLsbD_eq
  intro j hj
  simp only [encode, formatM, Instr.op, Op.code, Op.maskWord, Op.matchWord, BitVec.getLsbD_and,
    BitVec.getLsbD_append]
  interval_cases j <;> simp

theorem str (rs : RegNum) (off : Offset) : Statement (.str rs off) := by
  apply BitVec.eq_of_getLsbD_eq
  intro j hj
  simp only [encode, formatM, Instr.op, Op.code, Op.maskWord, Op.matchWord, BitVec.getLsbD_and,
    BitVec.getLsbD_append]
  interval_cases j <;> simp

theorem sclmode (rd rs1 rs2 : RegNum) : Statement (.sclmode rd rs1 rs2) := by
  apply BitVec.eq_of_getLsbD_eq
  intro j hj
  simp only [encode, formatR, Instr.op, Op.code, Op.maskWord, Op.matchWord, BitVec.getLsbD_and,
    BitVec.getLsbD_append]
  interval_cases j <;> simp

theorem prescl (rd rs1 rs2 : RegNum) (avg : Bool) : Statement (.prescl rd rs1 rs2 avg) := by
  apply BitVec.eq_of_getLsbD_eq
  intro j hj
  simp only [encode, formatR, Instr.op, Op.code, Op.maskWord, Op.matchWord, BitVec.getLsbD_and,
    BitVec.getLsbD_append]
  interval_cases j <;> simp

theorem sclfac (rd rs1 rs2 : RegNum) (mode : BitVec 2) (bil : Bool) : Statement (.sclfac rd rs1 rs2 mode bil) := by
  apply BitVec.eq_of_getLsbD_eq
  intro j hj
  simp only [encode, formatR, Instr.op, Op.code, Op.maskWord, Op.matchWord, BitVec.getLsbD_and,
    BitVec.getLsbD_append]
  interval_cases j <;> simp

theorem sclauto (rd rs1 rs2 : RegNum) (bil : Bool) : Statement (.sclauto rd rs1 rs2 bil) := by
  apply BitVec.eq_of_getLsbD_eq
  intro j hj
  simp only [encode, formatR, Instr.op, Op.code, Op.maskWord, Op.matchWord, BitVec.getLsbD_and,
    BitVec.getLsbD_append]
  interval_cases j <;> simp

theorem chrdim (rd rs1 : RegNum) (sub : BitVec 2) : Statement (.chrdim rd rs1 sub) := by
  apply BitVec.eq_of_getLsbD_eq
  intro j hj
  simp only [encode, formatR, Instr.op, Op.code, Op.maskWord, Op.matchWord, BitVec.getLsbD_and,
    BitVec.getLsbD_append]
  interval_cases j <;> simp

theorem windis (w : Index) : Statement (.windis w) := by
  apply BitVec.eq_of_getLsbD_eq
  intro j hj
  simp only [encode, formatX, Instr.op, Op.code, Op.maskWord, Op.matchWord, BitVec.getLsbD_and,
    BitVec.getLsbD_append]
  interval_cases j <;> simp

theorem assign (p : Index) : Statement (.assign p) := by
  apply BitVec.eq_of_getLsbD_eq
  intro j hj
  simp only [encode, formatX, Instr.op, Op.code, Op.maskWord, Op.matchWord, BitVec.getLsbD_and,
    BitVec.getLsbD_append]
  interval_cases j <;> simp

theorem pmuxwait : Statement .pmuxwait := by
  unfold Statement; decide

theorem derive : Statement .derive := by
  unfold Statement; decide

theorem blend (p : Index) : Statement (.blend p) := by
  apply BitVec.eq_of_getLsbD_eq
  intro j hj
  simp only [encode, formatX, Instr.op, Op.code, Op.maskWord, Op.matchWord, BitVec.getLsbD_and,
    BitVec.getLsbD_append]
  interval_cases j <;> simp

theorem clublend (w : Index) : Statement (.clublend w) := by
  apply BitVec.eq_of_getLsbD_eq
  intro j hj
  simp only [encode, formatX, Instr.op, Op.code, Op.maskWord, Op.matchWord, BitVec.getLsbD_and,
    BitVec.getLsbD_append]
  interval_cases j <;> simp

theorem pendbits (rd : RegNum) (p : Index) : Statement (.pendbits rd p) := by
  apply BitVec.eq_of_getLsbD_eq
  intro j hj
  simp only [encode, formatX, Instr.op, Op.code, Op.maskWord, Op.matchWord, BitVec.getLsbD_and,
    BitVec.getLsbD_append]
  interval_cases j <;> simp

theorem cfgdone (rs : RegNum) (p : Index) : Statement (.cfgdone rs p) := by
  apply BitVec.eq_of_getLsbD_eq
  intro j hj
  simp only [encode, formatX, Instr.op, Op.code, Op.maskWord, Op.matchWord, BitVec.getLsbD_and,
    BitVec.getLsbD_append]
  interval_cases j <;> simp

theorem fswait (c : Bool) (p : Index) : Statement (.fswait c p) := by
  apply BitVec.eq_of_getLsbD_eq
  intro j hj
  simp only [encode, formatX, Instr.op, Op.code, Op.maskWord, Op.matchWord, BitVec.getLsbD_and,
    BitVec.getLsbD_append]
  interval_cases j <;> simp

theorem standby (p : Index) : Statement (.standby p) := by
  apply BitVec.eq_of_getLsbD_eq
  intro j hj
  simp only [encode, formatX, Instr.op, Op.code, Op.maskWord, Op.matchWord, BitVec.getLsbD_and,
    BitVec.getLsbD_append]
  interval_cases j <;> simp

theorem enable (p : Index) : Statement (.enable p) := by
  apply BitVec.eq_of_getLsbD_eq
  intro j hj
  simp only [encode, formatX, Instr.op, Op.code, Op.maskWord, Op.matchWord, BitVec.getLsbD_and,
    BitVec.getLsbD_append]
  interval_cases j <;> simp

end Sys2Proof.Laws.EncodeOpcode
end

