-- ==== Sys2Proof/Laws/Scaling.lean ====
section
/-! SUPPORT. The correction loop of 41_scaling.md R180 and the operand domain of R161. -/

namespace Sys2Proof.Machine

theorem dimOk_iff (v : Word) : dimOk v = true ↔ 1 ≤ v.toNat ∧ v.toNat ≤ 65535 := by
  simp [dimOk]

/-- A loop whose test is false at once changes nothing. -/
theorem correct_of_below (k s d n f : Nat) (cal : Bool) (h : (f * d) >>> k < s) : correct k s d n f cal = (f, cal) := by
  cases n with
  | zero => rfl
  | succ n => simp [correct, Nat.not_le.mpr h]

/-- The test of the loop on the quotient (41 R184): it holds exactly when the division leaves no remainder. -/
theorem quotient_reaches_iff (k s d : Nat) :
    s ≤ ((s <<< k) / d * d) >>> k ↔ (s <<< k) % d = 0 := by
  rw [Nat.shiftRight_eq_div_pow, Nat.shiftLeft_eq]
  have hk : 0 < 2 ^ k := Nat.two_pow_pos k
  rw [Nat.le_div_iff_mul_le hk]
  have := Nat.div_add_mod (s * 2 ^ k) d
  rw [Nat.mul_comm] at this
  omega

/-- The correction loop started on the quotient runs its body at most once, whatever the bound (41 R182, R184): the result
is the quotient, or one less where the division leaves no remainder. -/
theorem correct_quotient (k s d n : Nat) (hs : 0 < s) (hd : 0 < d) :
    correct k s d (n + 1) ((s <<< k) / d) false = (((s <<< k) - 1) / d, decide ((s <<< k) % d = 0)) := by
  have hN : 0 < s <<< k := by
    rw [Nat.shiftLeft_eq]
    exact Nat.mul_pos hs (Nat.two_pow_pos k)
  have hmod := Nat.div_add_mod (s <<< k) d
  unfold correct
  by_cases h : (s <<< k) % d = 0
  · rw [if_pos ((quotient_reaches_iff k s d).mpr h)]
    have hq : 0 < (s <<< k) / d := by
      rcases Nat.eq_zero_or_pos ((s <<< k) / d) with h0 | h0
      · rw [h0, h] at hmod
        omega
      · exact h0
    have he : ((s <<< k) - 1) / d = (s <<< k) / d - 1 := by
      rw [h, Nat.add_zero] at hmod
      have h1 : (s <<< k) - 1 = d * ((s <<< k) / d - 1) + (d - 1) := by
        rw [Nat.mul_sub, Nat.mul_one]
        have : d ≤ d * ((s <<< k) / d) := Nat.le_mul_of_pos_right d hq
        omega
      rw [h1, Nat.mul_add_div hd, Nat.div_eq_of_lt (by omega : d - 1 < d)]
      omega
    rw [he, correct_of_below]
    · simp [h]
    · rw [Nat.shiftRight_eq_div_pow, Nat.div_lt_iff_lt_mul (Nat.two_pow_pos k), ← Nat.shiftLeft_eq]
      rw [h, Nat.add_zero, Nat.mul_comm] at hmod
      rw [Nat.sub_mul, hmod]
      omega
  · rw [if_neg (fun hh => h ((quotient_reaches_iff k s d).mp hh))]
    have he : ((s <<< k) - 1) / d = (s <<< k) / d := by
      have h1 : (s <<< k) - 1 = d * ((s <<< k) / d) + ((s <<< k) % d - 1) := by omega
      have hlt := Nat.mod_lt (s <<< k) hd
      rw [h1, Nat.mul_add_div hd, Nat.div_eq_of_lt (by omega : (s <<< k) % d - 1 < d), Nat.add_zero]
    rw [he]
    simp [h]

/-- The widened dimensions are at least 2 (41 R183). -/
theorem widenUnit_spec (src dst : Nat) (hs : 1 ≤ src) (hd : 1 ≤ dst) :
    widenUnit src dst = (src + (if src = 1 ∨ dst = 1 then 1 else 0), dst + (if src = 1 ∨ dst = 1 then 1 else 0)) ∧
      2 ≤ (widenUnit src dst).1 ∧ 2 ≤ (widenUnit src dst).2 := by
  unfold widenUnit
  by_cases h : src = 1 ∨ dst = 1
  · simp only [h, if_true]
    exact ⟨trivial, by omega, by omega⟩
  · simp only [h, if_false, Nat.add_zero]
    exact ⟨trivial, by omega, by omega⟩

/-- The factor and its flag for the modes that scale (41 R180, R184). -/
theorem scaleFactor_spec (mode : ScaleMode) (bil : Bool) (src dst : Nat) (hm : mode ≠ .none) (hs : 1 ≤ src) (hd : 1 ≤ dst) :
    scaleFactor mode bil src dst =
      (((((widenUnit src dst).1 - 1) <<< fractionBits mode bil) - 1) / ((widenUnit src dst).2 - 1),
        decide ((((widenUnit src dst).1 - 1) <<< fractionBits mode bil) % ((widenUnit src dst).2 - 1) = 0)) := by
  obtain ⟨_, h1, h2⟩ := widenUnit_spec src dst hs hd
  cases mode with
  | none => exact absurd rfl hm
  | up => exact correct_quotient _ _ _ 99 (by omega) (by omega)
  | down => exact correct_quotient _ _ _ 99 (by omega) (by omega)

@[simp] theorem scaleFactor_none (bil : Bool) (src dst : Nat) : scaleFactor .none bil src dst = (0, false) := rfl

end Sys2Proof.Machine
end

