-- ==== Sys2Proof/Machine/Assembler.lean ====
section
/-! DEFINITION. The assembler's side of the command set: how a command is written (30_encoding.md R123) and the
pseudo-instructions (R124). The block knows only the command words, so nothing here is read by the machine. -/

namespace Sys2Proof

/-- The pseudo-instructions of 30 R124. -/
inductive Pseudo where
  /-- LI32 rd, imm32 -/
  | li32 (rd : RegNum) (imm : Word)
  /-- MOV rd, rs -/
  | mov (rd rs : RegNum)
  /-- WRI [off12], imm32 -/
  | wri (off : Offset) (imm : Word)
  /-- COMMIT p -/
  | commit (p : Index)
deriving DecidableEq, Repr

/-- The two commands that load a 32-bit constant (30 R124). -/
def loadWord (rd : RegNum) (imm : Word) : List Instr :=
  [.li rd (imm.extractLsb' 0 16), .lih rd (imm.extractLsb' 16 16)]

/-- The commands that the assembler puts in place of a pseudo-instruction, in order (30 R124). -/
def Pseudo.expand : Pseudo → List Instr
  | .li32 rd imm => loadWord rd imm
  | .mov rd rs => [.str rs (0x040 + 4 * rd.setWidth 12)]
  | .wri off imm => loadWord 15 imm ++ [.str 15 off]
  | .commit p => [.pendbits 15 p, .cfgdone 15 p, .fswait true p]

/-- A register as it is written (30 R123). -/
def regText (r : RegNum) : String := "x" ++ toString r.toNat

/-- A mnemonic and its operands as they are written (30 R123). -/
def line (mnemonic : String) (operands : List String) : String :=
  if operands.isEmpty then mnemonic else mnemonic ++ " " ++ ", ".intercalate operands

/-- The suffix of SCLFAC for its mode and `bil`; the mode 3 has none (30 R118, R123). -/
def sclfacSuffix (mode : BitVec 2) (bil : Bool) : Option String :=
  match mode.toNat with
  | 0 => some (if bil then ".NB" else ".N")
  | 1 => some (if bil then ".UB" else ".U")
  | 2 => some (if bil then ".DB" else ".D")
  | _ => none

/-- A command as it is written (30 R123), numbers in decimal; none for the two reserved field values. -/
def Instr.text : Instr → Option String
  | .nop => some (line "NOP" [])
  | .li rd imm => some (line "LI" [regText rd, toString imm.toNat])
  | .lih rd imm => some (line "LIH" [regText rd, toString imm.toNat])
  | .ldr rd off => some (line "LDR" [regText rd, "[" ++ toString off.toNat ++ "]"])
  | .str rs off => some (line "STR" [regText rs, "[" ++ toString off.toNat ++ "]"])
  | .sclmode rd rs1 rs2 => some (line "SCLMODE" [regText rd, regText rs1, regText rs2])
  | .prescl rd rs1 rs2 avg => some (line (if avg then "PRESCL.A" else "PRESCL") [regText rd, regText rs1, regText rs2])
  | .sclfac rd rs1 rs2 mode bil =>
    (sclfacSuffix mode bil).map fun suffix => line ("SCLFAC" ++ suffix) [regText rd, regText rs1, regText rs2]
  | .sclauto rd rs1 rs2 bil => some (line (if bil then "SCLAUTO.B" else "SCLAUTO") [regText rd, regText rs1, regText rs2])
  | .chrdim rd rs1 sub =>
    if sub = 3 then none else some (line "CHRDIM" [regText rd, regText rs1, toString sub.toNat])
  | .windis w => some (line "WINDIS" [toString w.toNat])
  | .assign p => some (line "ASSIGN" [toString p.toNat])
  | .pmuxwait => some (line "PMUXWAIT" [])
  | .derive => some (line "DERIVE" [])
  | .blend p => some (line "BLEND" [toString p.toNat])
  | .clublend w => some (line "CLUBLEND" [toString w.toNat])
  | .pendbits rd p => some (line "PENDBITS" [regText rd, toString p.toNat])
  | .cfgdone rs p => some (line "CFGDONE" [regText rs, toString p.toNat])
  | .fswait c p => some (line (if c then "FSWAIT.C" else "FSWAIT") [toString p.toNat])
  | .standby p => some (line "STANDBY" [toString p.toNat])
  | .enable p => some (line "ENABLE" [toString p.toNat])

end Sys2Proof
end

