-- ==== Sys2Proof/Tests/Slice0.lean ====
section
/-! SUPPORT. Tests of the model: well-formedness, decoding of words written out from the spec's encodings, single steps with
the results of spec/95_test_vectors.md, and for every statement with hypotheses a state and operands that meet them. -/

open Sys2Proof Sys2Proof.Machine

namespace Sys2Proof.Tests

set_option Elab.async false

/-! ## Well-formedness: the two reserved field values of 30 R118 -/

theorem test_sclfac_mode_3_ill_formed : (Instr.sclfac 3 1 2 3 true).wellFormed = false := by decide
theorem test_sclfac_mode_2_well_formed : (Instr.sclfac 3 1 2 2 true).wellFormed = true := by decide
theorem test_chrdim_shift_3_ill_formed : (Instr.chrdim 4 1 3).wellFormed = false := by decide
theorem test_chrdim_shift_2_well_formed : (Instr.chrdim 4 1 2).wellFormed = true := by decide

/-! ## Decoding: one word of every row, from the formats of 30 R111 to R115 and the words of spec/95 -/

theorem test_decode_nop : decode 0x00000000 = .ok .nop := by decide
theorem test_decode_li : decode 0b000001_0011_000000_0001001000110100 = .ok (.li 3 0x1234) := by decide
theorem test_decode_lih : decode 0x08C0ABCD = .ok (.lih 3 0xABCD) := by decide
theorem test_decode_ldr : decode 0b000011_0101_0000000000_000000010000 = .ok (.ldr 5 0x010) := by decide
theorem test_decode_str : decode 0x11400210 = .ok (.str 5 0x210) := by decide
theorem test_decode_sclmode : decode 0b010000_0011_0001_0010_00000000000_000 = .ok (.sclmode 3 1 2) := by decide
theorem test_decode_prescl : decode 0x44C48000 = .ok (.prescl 3 1 2 false) := by decide
theorem test_decode_prescl_avg : decode 0x44C48001 = .ok (.prescl 3 1 2 true) := by decide
theorem test_decode_sclfac_bilinear_down : decode 0x48C48006 = .ok (.sclfac 3 1 2 2 true) := by decide
theorem test_decode_sclfac_up : decode 0x48C48001 = .ok (.sclfac 3 1 2 1 false) := by decide
theorem test_decode_sclauto : decode 0x4CC48004 = .ok (.sclauto 3 1 2 true) := by decide
theorem test_decode_chrdim : decode 0b010100_0100_0001_0000_00000000000_010 = .ok (.chrdim 4 1 2) := by decide
theorem test_decode_windis : decode 0b100000_0000_0000000000000_0_00000110 = .ok (.windis 6) := by decide
theorem test_decode_assign : decode 0x84000003 = .ok (.assign 3) := by decide
theorem test_decode_pmuxwait : decode 0x88000000 = .ok .pmuxwait := by decide
theorem test_decode_derive : decode 0xA0000000 = .ok .derive := by decide
theorem test_decode_blend : decode 0xA4000001 = .ok (.blend 1) := by decide
theorem test_decode_clublend : decode 0xA8000001 = .ok (.clublend 1) := by decide
theorem test_decode_pendbits : decode 0xC3C00001 = .ok (.pendbits 15 1) := by decide
theorem test_decode_cfgdone : decode 0xC4C00000 = .ok (.cfgdone 3 0) := by decide
theorem test_decode_fswait : decode 0xC8000003 = .ok (.fswait false 3) := by decide
theorem test_decode_fswait_c : decode 0xC8000101 = .ok (.fswait true 1) := by decide
theorem test_decode_standby : decode 0xCC000000 = .ok (.standby 0) := by decide
theorem test_decode_enable : decode 0xD00000FF = .ok (.enable 255) := by decide

/-! Words that are no command (30 R120, spec/95 part 3.6). -/

theorem test_decode_unknown_opcode : decode 0xFC000000 = .error .unknownOpcode := by decide
theorem test_decode_nop_with_operand : decode 0x00000001 = .error .reservedBits := by decide
theorem test_decode_sclmode_fn : decode 0x40000001 = .error .reservedBits := by decide
theorem test_decode_chrdim_rs2 : decode 0x50004000 = .error .reservedBits := by decide
theorem test_decode_assign_flag : decode 0x84000100 = .error .reservedBits := by decide
theorem test_decode_sclfac_mode_3 : decode 0x48400003 = .error .reservedMode := by decide
theorem test_decode_chrdim_shift_3 : decode 0x50000003 = .error .reservedShift := by decide
theorem test_decode_short_bytes : decodeBytes [0x00, 0x00, 0x00] = .error .truncated := by decide
theorem test_decode_table_word : decodeTableWord 32 0x48C48006 = some (.sclfac 3 1 2 2 true) := by decide

/-- No word matches two rows: any two differ in a bit that both masks cover (30 R117). -/
theorem test_rows_disjoint :
    Op.all.Pairwise (fun a b => a.maskWord &&& b.maskWord &&& (a.matchWord ^^^ b.matchWord) ≠ 0) := by decide

/-! ## Single steps -/

/-- The step at which the host writes the word `w` to `CMD`. -/
def command (w : Nat) (s : State) : Result := step (s.withFetchWord 32 w)

/-- The step of another agent. -/
def turnOf (a : Agent) (s : State) : Result := step { s with schedule := [a] }

/-- What the registers at some offsets read after a step. -/
def shows (r : Result) (offs : List Nat) : List Nat :=
  match r with
  | .next t => offs.map fun off => ((memRead t (BitVec.ofNat 12 off)).getD 0xBAD).toNat
  | _ => []

/-- The state after a step. -/
def after (r : Result) (s : State) : State :=
  match r with
  | .next t => t
  | _ => s

/-- `s` after some register writes. -/
def prep (writes : List (Nat × Nat)) (s : State) : State :=
  writes.foldl (fun s w => (memWrite s (BitVec.ofNat 12 w.1) (BitVec.ofNat 32 w.2)).getD s) s

/-- The reset state with a source and a destination dimension in `x1` and `x2`. -/
def dims (src dst : Nat) : State := prep [(0x044, src), (0x048, dst)] State.reset

theorem test_nop_counts : shows (command 0x00000000 State.reset) [0x020, 0x00C] = [1, 0] := by decide +kernel
theorem test_li_zero_extends : shows (command 0x04C0FFFF State.reset) [0x04C] = [0x0000FFFF] := by decide +kernel
theorem test_lih_keeps_lower_half :
    shows (command 0x08C08000 (prep [(0x04C, 0x0000FFFF)] State.reset)) [0x04C] = [0x8000FFFF] := by decide +kernel
theorem test_ldr_id : shows (command 0x0C400000 State.reset) [0x044] = [0x53464301] := by decide +kernel
theorem test_ldr_cmd_faults :
    shows (command 0x0C400008 (prep [(0x044, 0x77)] State.reset)) [0x044, 0x014, 0x018] = [0x77, 0x08, 0x00000104] := by
  decide +kernel
theorem test_str_keeps_class_bits :
    shows (command 0x10400280 (prep [(0x044, 0xFFFFFFFF)] State.reset)) [0x280] = [0x0001FFF1] := by decide +kernel
theorem test_str_log_clears :
    shows (command 0x1040001C { prep [(0x044, 5)] State.reset with log := 7 }) [0x01C, 0x00C] = [2, 0x40] := by
  decide +kernel
theorem test_sclmode_down : shows (command 0x40C48000 (dims 1920 960)) [0x04C] = [2] := by decide +kernel
theorem test_sclmode_unsigned : shows (command 0x40C48000 (dims 0xFFFFFFFF 1)) [0x04C] = [2] := by decide +kernel
theorem test_prescl_gt2_floor : shows (command 0x44C48000 (dims 2159 540)) [0x04C, 0x010] = [1079, 1] := by decide +kernel
theorem test_prescl_gt4_first : shows (command 0x44C48000 (dims 2160 540)) [0x04C, 0x010] = [540, 2] := by decide +kernel
theorem test_sclfac_corrected : shows (command 0x48C48006 (dims 540 540)) [0x04C, 0x010] = [0x00000FFF, 0x10] := by
  decide +kernel
theorem test_sclfac_largest : shows (command 0x48C48002 (dims 65535 1)) [0x04C, 0x010] = [0xFFFEFFFF, 0x10] := by
  decide +kernel
theorem test_sclauto_edge : shows (command 0x4CC48004 (dims 2 1)) [0x04C, 0x010] = [0x00001FFF, 0x10] := by decide +kernel
theorem test_sclauto_range : shows (command 0x4CC48000 (dims 0 1)) [0x014, 0x018] = [2, 0x00000102] := by decide +kernel
theorem test_chrdim_floor : shows (command 0x51040001 (dims 1081 0)) [0x050] = [540] := by decide +kernel
theorem test_windis_cascade :
    shows (command 0x80000000 (prep [(0x200, 0x11), (0x208, 0x00800303)] State.reset)) [0x200, 0x208] =
      [0x00000010, 0x00800302] := by decide +kernel
/-- Vector L1. -/
theorem test_assign_lower_zpos_first :
    shows (command 0x84000000 (prep [(0x280, 0x10511), (0x300, 0x20211)] State.reset))
        [0x110, 0x114, 0x134, 0x028, 0x030, 0x100, 0x120] =
      [0x14, 0x022, 0x200, 0x00503124, 0x881, 0x09, 0x11] := by decide +kernel
/-- Vector L6. -/
theorem test_assign_two_ports_faults :
    shows (command 0x84000000 (prep [(0x200, 0x31)] State.reset)) [0x014, 0x018, 0x110, 0x030] =
      [0x10, 0x00000105, 0, 0x888] := by decide +kernel
theorem test_pmuxwait_equal : shows (command 0x88000000 State.reset) [0x020, 0x00C] = [1, 0] := by decide +kernel
theorem test_pmuxwait_waits :
    shows (command 0x88000000 { State.reset with portMux := #v[0, 8, 8, 0] }) [0x00C] = [0x05] := by decide +kernel
theorem test_derive_per_pixel :
    shows (command 0xA0000000 (prep [(0x080, 0x00FFFF0E)] State.reset)) [0x084, 0x088, 0x08C, 0x090] =
      [0x00FF0125, 0x00FF0060, 0x00000024, 0x00000074] := by decide +kernel
theorem test_derive_both_globals :
    shows (command 0xA0000000 (prep [(0x080, 0x0070900C)] State.reset)) [0x084, 0x088, 0x08C, 0x090] =
      [0x009001A8, 0x00700061, 0x00000028, 0x00000078] := by decide +kernel
theorem test_blend_after_reset :
    shows (command 0xA4000000 State.reset) [0x038, 0x400, 0x4A0] = [0x00888888, 0x00FF01A0, 0x00FF01A0] := by
  decide +kernel
/-- Vector B5: the bottom window's global alpha is applied one stage up. -/
theorem test_blend_bottom_alpha :
    shows (command 0xA4000000 (after (command 0x84000000
        (prep [(0x280, 0x10011), (0x2C0, 0x10111), (0x200, 0x211), (0x284, 0x80), (0x2C4, 0x1C0), (0x204, 0x140)]
          State.reset)) State.reset)) [0x400, 0x420, 0x424, 0x42C, 0x440, 0x460] =
      [0x00FF01A1, 0x00C001A8, 0x00800061, 0x00000078, 0x00FF0125, 0x00FF01A0] := by decide +kernel
theorem test_clublend_sub_below :
    shows (command 0xA8000001 (prep [(0x248, 0x00800303), (0x244, 0x2C0)] State.reset)) [0x620, 0x624, 0x628, 0x62C] =
      [0x00C003A0, 0x00800061, 0x00000020, 0x00000078] := by decide +kernel
theorem test_clublend_no_cluster : shows (command 0xA8000002 State.reset) [0x014, 0x018] = [4, 0x00000103] := by
  decide +kernel

/-- Ports 0 to 2 with 1080p timing, running, at the given lines, with some pending bits. -/
def scanning (v0 v1 v2 : Nat) (pend : BitVec 4) : State :=
  let port (v : Nat) : Port :=
    { Port.reset with stby := false, run := true, htotal := 2200, vtotal := 1125, pclk := 148500
                      vcnt := BitVec.ofNat 16 v }
  { State.reset with ports := #v[port v0, port v1, port v2, Port.reset], pend := pend }

/-- Vectors K3 and K4: at line 984 no wait, at line 985 a wait for port 1. -/
theorem test_pendbits_before_last_eighth :
    shows (command 0xC3C00000 (scanning 0 984 0 2)) [0x07C, 0x00C] = [2, 0] := by decide +kernel
theorem test_pendbits_in_last_eighth :
    shows (command 0xC3C00000 (scanning 0 985 0 2)) [0x07C, 0x00C] = [0, 0x0B] := by decide +kernel
/-- `scanning` with port 1 stopped by dsp-hold: its line counter stands (44 R310, 60 R352). -/
def stopped (v0 v1 v2 : Nat) (pend : BitVec 4) : State :=
  (scanning v0 v1 v2 pend).modPort 1 fun pt => { pt with stby := true, run := false }

/-- 44 R321: PENDBITS reads the count of a stopped port as 0, never waits for it in step 3 and carries it over. -/
theorem test_pendbits_stopped_port :
    shows (command 0xC3C00000 (stopped 0 1000 0 2)) [0x07C, 0x00C, 0x12C] = [2, 0, 1000] := by decide +kernel
/-- 44 R321: in step 4 the time left of a stopped port is a whole frame, so with port 2 at line 500 there is no wait. -/
theorem test_pendbits_two_others_one_stopped :
    shows (command 0xC3C00000 (stopped 0 1124 500 6)) [0x07C, 0x00C] = [6, 0] := by decide +kernel
/-- Vector K22: a stale operand clears the other bits of the shared latch. -/
theorem test_cfgdone_clobbers : shows (command 0xC7C00002 { State.reset with pend := 3 }) [0x024] = [0x00008004] := by
  decide +kernel
/-- Vector K23. -/
theorem test_cfgdone_range :
    shows (command 0xC7C00002 (prep [(0x07C, 8)] State.reset)) [0x024, 0x014] = [0, 2] := by decide +kernel
theorem test_fswait_waits : shows (command 0xC8000000 (scanning 0 0 0 1)) [0x00C] = [0x03] := by decide +kernel
theorem test_fswait_c_unchanged_selector : shows (command 0xC8000100 (scanning 0 0 0 1)) [0x00C] = [0] := by
  decide +kernel
/-- Vectors K44 and K43. -/
theorem test_standby_waits : shows (command 0xCC000000 (scanning 10 0 0 0)) [0x100, 0x00C] = [0x03, 0x07] := by
  decide +kernel
theorem test_standby_stopped : shows (command 0xCC000000 State.reset) [0x100, 0x00C] = [0x01, 0] := by decide +kernel
/-- Vectors K41 and K40. -/
theorem test_enable_starts :
    shows (command 0xD0000000 (prep [(0x104, 0x04650898), (0x108, 148500)] State.reset)) [0x100, 0x10C] = [0x02, 0] := by
  decide +kernel
theorem test_enable_without_timing :
    shows (command 0xD0000000 State.reset) [0x100, 0x014, 0x018] = [0x01, 0x20, 0x00000106] := by decide +kernel
/-- Vector F1. -/
theorem test_illegal_word : shows (command 0xFC000000 State.reset) [0x014, 0x018, 0x020] = [1, 0x00000101, 1] := by
  decide +kernel

/-! ## Events and the host port -/

/-- The last line of port 0, with its pending bit, a staged selector and a staged factor of window 2 (vector K33). -/
def committed : State :=
  let s := scanning 1124 0 0 1
  { prep [(0x280, 0x10011), (0x294, 0x2004)] s with portMux := #v[0, 8, 8, 0] }

theorem test_boundary_latches :
    shows (turnOf (.lineTick 0) committed) [0x10C, 0x024, 0x034, 0x2A8] = [0, 0, 0x880, 0x2004] := by decide +kernel
theorem test_boundary_without_commit :
    shows (turnOf (.lineTick 0) { committed with pend := 0 }) [0x10C, 0x034, 0x2A8] = [0, 0x888, 0] := by decide +kernel
theorem test_tick_counts : shows (turnOf (.lineTick 1) committed) [0x12C, 0x024] = [1, 1] := by decide +kernel
theorem test_stopped_port_has_no_tick : shows (turnOf (.lineTick 0) State.reset) [0x10C] = [0] := by decide +kernel

/-- STANDBY 0 waits. -/
def standing : State :=
  { scanning 10 0 0 0 with wait := .waiting .dspHold 0 (.standby 0) }.modPort 0 fun pt => { pt with stby := true }

theorem test_dsp_hold_stops : shows (turnOf (.dspHold 0) standing) [0x100] = [0x05] := by decide +kernel
/-- Vector K46. -/
theorem test_standby_timeout : shows (turnOf .timeout standing) [0x01C, 0x100, 0x00C] = [4, 0x03, 0x40] := by
  decide +kernel
/-- Vector K44. -/
theorem test_standby_resume :
    shows (turnOf .resume (standing.modPort 0 fun pt => { pt with run := false, dspHold := true })) [0x100, 0x00C] =
      [0x01, 0] := by decide +kernel
theorem test_reset_restores : shows (turnOf .reset standing) [0x00C, 0x100, 0x030] = [0, 1, 0x888] := by decide +kernel
/-- A bus read while a command waits is not held (20 R96). -/
theorem test_bus_read_while_waiting :
    (after (turnOf .host { standing with hostOps := [.busRead 0x00C] }) State.reset).readData = some 0x07 := by
  decide +kernel
/-- A bus write while a command waits is held (20 R96). -/
theorem test_bus_write_while_waiting :
    shows (turnOf .host { standing with hostOps := [.busWrite 0x080 0] }) [0x080] = [0x00FFFF00] := by decide +kernel
/-- Bus vector of spec/95 part 2. -/
theorem test_bus_write_read_only :
    shows (turnOf .host { State.reset with hostOps := [.busWrite 0x014 1] }) [0x014, 0x018] = [8, 4] := by decide +kernel
/-- Some byte lanes of `ID` (20 R86). -/
theorem test_byte_lanes :
    readLane State.reset 0x000 = some 0x01 ∧ readLane State.reset 0x003 = some 0x53 := by decide +kernel
/-- A profile that breaks 00 R9 is refused. -/
theorem test_bad_profile_refused :
    step (State.resetOf { Profile.standard with nlayer := 5 }) = .refused .badProfile := by
  unfold step
  rw [if_neg (by decide +kernel)]

/-! ## The assembler (30 R123, R124; the words are those of spec/95 part 1) -/

theorem test_li32_words : (Pseudo.li32 3 0xDEADBEEF).expand.map encode = [0x04C0BEEF, 0x08C0DEAD] := by decide
theorem test_mov_words : (Pseudo.mov 7 2).expand.map encode = [0x1080005C] := by decide
theorem test_wri_words :
    (Pseudo.wri 0x104 0x04650898).expand.map encode = [0x07C00898, 0x0BC00465, 0x13C00104] := by decide
theorem test_commit_commands : (Pseudo.commit 1).expand = [.pendbits 15 1, .cfgdone 15 1, .fswait true 1] := by decide
theorem test_text_of_sclfac : (Instr.sclfac 3 1 2 2 true).text = some "SCLFAC.DB x3, x1, x2" := by decide +kernel

/-! ## States and operands that meet the hypotheses of the statements

One theorem for every statement of Certificates/Slice0/Obligations.lean that has hypotheses, its clauses at boundary values. -/

/-- A step answers a next state that meets `p`. -/
def meets (r : Result) (p : State → Bool) : Bool :=
  match r with
  | .next t => p t
  | _ => false

theorem next_of_meets {r : Result} {p : State → Bool} (h : meets r p = true) : ∃ t, r = .next t ∧ p t = true := by
  unfold meets at h
  split at h
  · next t => exact ⟨t, rfl, h⟩
  · cases h

/-- A block that waits in FSWAIT 0, with an access of the host held. -/
def waitingWith (op : HostOp) : State :=
  { scanning 0 0 0 1 with wait := .waiting .done 0 (.fswait false 0), hostOps := [op], schedule := [.host] }

/-- An idle block with a next access of the host. -/
def idleWith (op : HostOp) : State := { State.reset with hostOps := [op] }

/-- Windows 2 and 3 on port 0, after ASSIGN 0. -/
def assigned : State := after (command 0x84000000 (prep [(0x280, 0x10011), (0x2C0, 0x10111)] State.reset)) State.reset

/-- Windows 0 and 1 on port 0, window 2 on port 1, after ASSIGN 0 and ASSIGN 1 (vector L4). -/
def twoPorts : State :=
  after (command 0x84000001 (after (command 0x84000000
    (prep [(0x200, 0x11), (0x240, 0x111), (0x280, 0x10021)] State.reset)) State.reset)) State.reset

/-- Window 3, disabled on port 0, is enabled for port 1 (commit N+1 of scenario D). -/
def migrating : State := prep [(0x2C0, 0x10121)] assigned

theorem test_assigned_sound : AssignmentSound assigned :=
  ⟨by decide +kernel, by decide +kernel, by decide +kernel, by decide +kernel, by decide +kernel, by decide +kernel,
    by decide +kernel⟩

theorem test_two_ports_sound : AssignmentSound twoPorts :=
  ⟨by decide +kernel, by decide +kernel, by decide +kernel, by decide +kernel, by decide +kernel, by decide +kernel,
    by decide +kernel⟩

theorem test_migrating_sound : AssignmentSound migrating :=
  ⟨by decide +kernel, by decide +kernel, by decide +kernel, by decide +kernel, by decide +kernel, by decide +kernel,
    by decide +kernel⟩

theorem test_witness_DecodeFollowsTable :
    (0x04C01234 : Word) &&& Op.maskWord .li = Op.matchWord .li ∧
      ¬ ((Op.li = .sclfac ∨ Op.li = .chrdim) ∧ (0x04C01234 : Word).extractLsb' 0 2 = 3#2) := by decide

theorem test_witness_IllegalWordRaisesIllcmd :
    [(0xFC000000 : Word), 0x00000001, 0x48C00003, 0x50000003].all (fun bits => Op.all.all fun op =>
      !(bits &&& op.maskWord == op.matchWord) ||
        ((op == .sclfac || op == .chrdim) && bits.extractLsb' 0 2 == 3#2)) = true := by decide +kernel

theorem test_all_rows_listed (op : Op) : op ∈ Op.all := by cases op <;> decide

theorem test_witness_StepRunsDecodedCommand :
    HostNext (State.reset.withFetchWord 32 0x04C01234) (.busWrite 0x008#12 0x04C01234) [] ∧
      (State.reset.withFetchWord 32 0x04C01234).wait = .idle ∧ decode 0x04C01234 = .ok (.li 3 0x1234) := by
  decide +kernel

theorem test_witness_StepRunsDecodedCommand_illegal :
    HostNext (State.reset.withFetchWord 32 0xFC000000) (.busWrite 0x008#12 0xFC000000) [] ∧
      (State.reset.withFetchWord 32 0xFC000000).wait = .idle ∧ ∀ i, decode 0xFC000000 ≠ .ok i := by
  refine ⟨by decide +kernel, by decide +kernel, fun i h => ?_⟩
  rw [show decode 0xFC000000 = .error .unknownOpcode by decide] at h
  cases h

theorem test_witness_HeldHostAccess :
    (HostNext (waitingWith (.busWrite 0x080 1)) (.busWrite 0x080 1) [] ∧ (waitingWith (.busWrite 0x080 1)).wait ≠ .idle) ∧
      (HostNext (waitingWith (.busRead 0x00C)) (.busRead 0x00C) [] ∧ (waitingWith (.busRead 0x00C)).wait ≠ .idle) := by
  decide +kernel

theorem test_witness_BusReadReturnsRegister :
    (HostNext (idleWith (.busRead 0x000)) (.busRead 0x000) [] ∧ regAt State.reset.profile 0x000 = some .id ∧
        RegName.id ≠ .cmd) ∧
      (HostNext (idleWith (.busRead 0x001)) (.busRead 0x001) [] ∧ (0x001#12).toNat % 4 ≠ 0) ∧
      (HostNext (idleWith (.busRead 0xFFC)) (.busRead 0xFFC) [] ∧ regAt State.reset.profile 0xFFC = none) ∧
      (HostNext (idleWith (.busRead 0x008)) (.busRead 0x008) [] ∧ regAt State.reset.profile 0x008 = some .cmd) :=
  ⟨by decide +kernel, by decide +kernel, by decide +kernel, by decide +kernel⟩

theorem test_witness_BusWriteStoresOrFaults :
    (HostNext (idleWith (.busWrite 0x01C 7)) (.busWrite 0x01C 7) [] ∧ (idleWith (.busWrite 0x01C 7)).wait = .idle ∧
        regAt State.reset.profile 0x01C = some .log ∧ accessOf .log = .w1c) ∧
      (HostNext (idleWith (.busWrite 0x07C 7)) (.busWrite 0x07C 7) [] ∧
        regAt State.reset.profile 0x07C = some (.x 15) ∧ accessOf (.x 15) = .rw) ∧
      (HostNext (idleWith (.busWrite 0xFFF 7)) (.busWrite 0xFFF 7) [] ∧ (0xFFF#12).toNat % 4 ≠ 0) ∧
      (HostNext (idleWith (.busWrite 0x03C 7)) (.busWrite 0x03C 7) [] ∧ regAt State.reset.profile 0x03C = none) ∧
      (HostNext (idleWith (.busWrite 0x000 7)) (.busWrite 0x000 7) [] ∧
        regAt State.reset.profile 0x000 = some .id ∧ accessOf .id = .ro) :=
  ⟨by decide +kernel, by decide +kernel, by decide +kernel, by decide +kernel, by decide +kernel⟩

theorem test_witness_AddressMapIsTheTable :
    State.reset.profile.WellFormed ∧
      (regAt State.reset.profile 0x374 = some (.window 5 (.sclAct .cbcrY)) ∧
        inMap State.reset.profile (.window 5 (.sclAct .cbcrY)) = true ∧
        (0x374#12).toNat = offsetOf (.window 5 (.sclAct .cbcrY))) ∧
      regAt State.reset.profile 0x63C = some (.clu 1 true .dstAlpha) ∧ regAt State.reset.profile 0x640 = none := by
  decide +kernel

theorem test_witness_WriteTakesWritableBits :
    State.reset.profile.WellFormed ∧
      (regAt State.reset.profile 0x340 = some (.window 5 .ctrl) ∧ accessOf (.window 5 .ctrl) = .rw) ∧
      regAt State.reset.profile 0x01C = some .log ∧ (0x002#12).toNat % 4 ≠ 0 ∧
      regAt State.reset.profile 0x160 = none ∧
      (regAt State.reset.profile 0x4BC = some (.mix 5 true .dstAlpha) ∧ accessOf (.mix 5 true .dstAlpha) = .ro) := by
  decide +kernel

theorem test_witness_LdrReadsRegister :
    (regAt State.reset.profile 0x040 = some (.x 0) ∧ RegName.x 0 ≠ .cmd) ∧ (0x041#12).toNat % 4 ≠ 0 ∧
      regAt State.reset.profile 0x380 = none := by
  decide +kernel

theorem test_witness_StrWritesRegister :
    (regAt State.reset.profile 0x080 = some .acfg ∧ accessOf .acfg = .rw) ∧
      regAt State.reset.profile 0x01C = some .log ∧ (0x013#12).toNat % 4 ≠ 0 ∧
      regAt State.reset.profile 0x094 = none ∧
      (regAt State.reset.profile 0x010 = some .flags ∧ accessOf .flags = .ro) := by
  decide +kernel

/-- Both ends of the range of dimensions, and the values next to them. -/
theorem test_witness_PresclDecimates :
    (∀ v ∈ [1, 65535], 1 ≤ ((dims v v).reg 1).toNat ∧ ((dims v v).reg 1).toNat ≤ 65535 ∧
        1 ≤ ((dims v v).reg 2).toNat ∧ ((dims v v).reg 2).toNat ≤ 65535) ∧
      ∀ v ∈ [0, 65536], ¬ (1 ≤ ((dims v 1).reg 1).toNat ∧ ((dims v 1).reg 1).toNat ≤ 65535 ∧
        1 ≤ ((dims v 1).reg 2).toNat ∧ ((dims v 1).reg 2).toNat ≤ 65535) := by
  decide +kernel

theorem test_witness_SclfacIsClosedForm :
    (1 ≤ ((dims 65535 1).reg 1).toNat ∧ ((dims 65535 1).reg 1).toNat ≤ 65535 ∧
        1 ≤ ((dims 65535 1).reg 2).toNat ∧ ((dims 65535 1).reg 2).toNat ≤ 65535) ∧
      ((2#2 = 1 ∨ 2#2 = 2) ∧ 0#2 = 0 ∧ 3#2 = 3 ∧ 0#2 ≠ 3) ∧
      ¬ (1 ≤ ((dims 65536 1).reg 1).toNat ∧ ((dims 65536 1).reg 1).toNat ≤ 65535 ∧
        1 ≤ ((dims 65536 1).reg 2).toNat ∧ ((dims 65536 1).reg 2).toNat ≤ 65535) := by
  decide +kernel

theorem test_witness_FactorNeverOvershoots :
    2 ≤ ((dims 2 65535).reg 1).toNat ∧ ((dims 2 65535).reg 1).toNat ≤ 65535 ∧
      2 ≤ ((dims 2 65535).reg 2).toNat ∧ ((dims 2 65535).reg 2).toNat ≤ 65535 ∧ (2#2 = 1 ∨ 2#2 = 2) := by
  decide +kernel

theorem test_witness_SclautoIsModeThenFactor :
    (1 ≤ ((dims 1 65535).reg 1).toNat ∧ ((dims 1 65535).reg 1).toNat ≤ 65535 ∧
        1 ≤ ((dims 1 65535).reg 2).toNat ∧ ((dims 1 65535).reg 2).toNat ≤ 65535) ∧
      ¬ (1 ≤ ((dims 1 0).reg 1).toNat ∧ ((dims 1 0).reg 1).toNat ≤ 65535 ∧
        1 ≤ ((dims 1 0).reg 2).toNat ∧ ((dims 1 0).reg 2).toNat ≤ 65535) := by
  decide +kernel

theorem test_witness_ChrdimShiftsDimension : 2#2 ≠ 3 ∧ 3#2 = 3 := by decide

theorem test_witness_BadIndexRaised :
    State.reset.profile.nport ≤ (3#8).toNat ∧ State.reset.profile.nwin ≤ (6#8).toNat ∧
      ((5#8).toNat < State.reset.profile.nwin ∧ classOf State.reset.profile (5#8).toNat ≠ .cluster) := by
  decide +kernel

/-- Both outcomes, and a fault whose bit is set already. -/
theorem test_witness_FaultChangesOnlyTheRecord :
    (∃ t, acceptWord 0xFC000000 State.reset = .next t ∧ decide (t.fault ≠ State.reset.fault) = true) ∧
      (∃ t, acceptWord 0xFC000000 { State.reset with fault := 1, faultInfo := 0x101 } = .next t ∧
        decide (t.fault = 1 ∧ t.faultInfo = 0x101) = true) ∧
      ∃ t, acceptWord 0x00000000 State.reset = .next t ∧ decide (t.fault = 0 ∧ t.seq = 1) = true :=
  ⟨next_of_meets (by decide +kernel), next_of_meets (by decide +kernel), next_of_meets (by decide +kernel)⟩

theorem test_witness_FaultRecordIsSticky :
    ∃ t, step { State.reset with fault := 1, faultInfo := 0x101, hostOps := [.busWrite 0x008 0x84000003] } = .next t ∧
      decide (t.fault = 0b000101 ∧
        nextAgent { State.reset with fault := 1, faultInfo := 0x101, hostOps := [.busWrite 0x008 0x84000003] } ≠ .reset)
        = true :=
  next_of_meets (by decide +kernel)

theorem test_witness_WindisDisablesWindow :
    State.reset.profile.WellFormed ∧ (5#8).toNat < State.reset.profile.nwin ∧
      State.reset.profile.nwin ≤ (6#8).toNat := by
  decide +kernel

theorem test_witness_AssignMovesWindows :
    migrating.profile.WellFormed ∧ (1#8).toNat < migrating.profile.nport ∧ VpMasksOneHot migrating ∧
      claimed migrating 1 3 = true := by
  decide +kernel

theorem test_witness_AssignCountsRanges :
    migrating.profile.WellFormed ∧ (1#8).toNat < migrating.profile.nport ∧ VpMasksOneHot migrating ∧
      MasksSound migrating := by
  decide +kernel

theorem test_witness_AssignPlacesSortedWindows :
    AssignmentSound migrating ∧ (1#8).toNat < migrating.profile.nport ∧ VpMasksOneHot migrating :=
  ⟨test_migrating_sound, by decide +kernel, by decide +kernel⟩

theorem test_witness_AssignFrame :
    migrating.profile.WellFormed ∧ (2#8).toNat < migrating.profile.nport ∧ VpMasksOneHot migrating := by
  decide +kernel

theorem test_witness_BadConfigurationRaised :
    (¬ VpMasksOneHot (prep [(0x200, 0x81)] State.reset) ∧ State.reset.profile.WellFormed ∧
        (0#8).toNat < State.reset.profile.nport) ∧
      ((assigned.port (2#8).toNat).rangeChg = true ∧ assigned.profile.WellFormed ∧
        (2#8).toNat < assigned.profile.nport) := by
  decide +kernel

theorem test_witness_AssignKeepsOtherPortsLayers :
    AssignmentSound twoPorts ∧ (0#8).toNat < twoPorts.profile.nport ∧ VpMasksOneHot twoPorts ∧
      (∀ w < twoPorts.profile.nwin, claimed twoPorts (0#8).toNat w = false) ∧
      ((twoPorts.win 2).vpMask = 1#4 <<< 1 ∧ (twoPorts.port 1).start.toNat ≤ 2 ∧
        2 < (twoPorts.port 1).start.toNat + (twoPorts.port 1).wcnt.toNat ∧
        getAt twoPorts.layerSel 2 = selCode twoPorts.profile 2) :=
  ⟨test_two_ports_sound, by decide +kernel, by decide +kernel, by decide +kernel, by decide +kernel⟩

theorem test_witness_PmuxwaitEndsOrWaits :
    State.reset.portMuxAct = State.reset.portMux ∧ assigned.portMuxAct ≠ assigned.portMux := by
  decide +kernel

theorem test_witness_BlendOwnsItsSlots :
    AssignmentSound assigned ∧ (0#8).toNat < assigned.profile.nport ∧ (assigned.port (0#8).toNat).rangeChg = false :=
  ⟨test_assigned_sound, by decide +kernel, by decide +kernel⟩

theorem test_witness_BlendBuildsStages :
    (AssignmentSound assigned ∧ (0#8).toNat < assigned.profile.nport ∧ (assigned.port (0#8).toNat).rangeChg = false) ∧
      (1 < (assigned.port 0).nrLayers.toNat ∧
        getAt assigned.layerSel ((assigned.port 0).start.toNat + 1) = selCode assigned.profile 3 ∧
        getAt assigned.layerSel (assigned.port 0).start.toNat = selCode assigned.profile 2) :=
  ⟨⟨test_assigned_sound, by decide +kernel, by decide +kernel⟩, by decide +kernel⟩

theorem test_witness_ClublendBuildsInnerStage :
    State.reset.profile.WellFormed ∧ (1#8).toNat < State.reset.profile.nwin ∧
      classOf State.reset.profile (1#8).toNat = .cluster := by
  decide +kernel

theorem test_witness_PendbitsWithNothingToCarry :
    (2#8).toNat < State.reset.profile.nport ∧ { State.reset with pend := 4 }.pend &&& ~~~(1#4 <<< (2#8).toNat) = 0 := by
  decide +kernel

/-- Lines 984 and 985 of 1125 are the two sides of the last eighth. -/
theorem test_witness_PendbitsWithOneOther :
    ((0#8).toNat < State.reset.profile.nport ∧ State.reset.profile.sharedLatch = true ∧
        (scanning 0 984 0 2).pend &&& ~~~(1#4 <<< (0#8).toNat) = 1#4 <<< 1) ∧
      ((scanning 0 984 0 2).port 1).vcnt.toNat ≤ ((scanning 0 984 0 2).port 1).vtotal.toNat * 7 / 8 ∧
      ((scanning 0 985 0 2).port 1).vtotal.toNat * 7 / 8 < ((scanning 0 985 0 2).port 1).vcnt.toNat ∧
      ((stopped 0 1000 0 2).pend &&& ~~~(1#4 <<< (0#8).toNat) = 1#4 <<< 1 ∧
        ((stopped 0 1000 0 2).port 1).run = false ∧
        ((stopped 0 1000 0 2).port 1).vtotal.toNat * 7 / 8 < ((stopped 0 1000 0 2).port 1).vcnt.toNat) := by
  decide +kernel

/-- Vectors K6, K8, K9 and K15: the four outcomes. -/
theorem test_witness_PendbitsWithTwoOthers :
    ((0#8).toNat < State.reset.profile.nport ∧ State.reset.profile.sharedLatch = true ∧
        (scanning 0 100 500 6).pend &&& ~~~(1#4 <<< (0#8).toNat) = (1#4 <<< 1) ||| (1#4 <<< 2)) ∧
      (safeUs ((scanning 0 100 500 6).port 1) < leftUs ((scanning 0 100 500 6).port 1) ∧
        safeUs ((scanning 0 100 500 6).port 2) < leftUs ((scanning 0 100 500 6).port 2)) ∧
      (¬ safeUs ((scanning 0 1000 1100 6).port 1) < leftUs ((scanning 0 1000 1100 6).port 1) ∧
        leftUs ((scanning 0 1000 1100 6).port 2) < leftUs ((scanning 0 1000 1100 6).port 1)) ∧
      leftUs ((scanning 0 1100 1000 6).port 1) ≤ leftUs ((scanning 0 1100 1000 6).port 2) ∧
      ¬ (State.reset.port 1).pclk ≠ 0 := by
  decide +kernel

theorem test_witness_CfgdoneCommits :
    State.reset.profile.WellFormed ∧ (2#8).toNat < State.reset.profile.nport ∧
      ((prep [(0x07C, 7)] State.reset).reg 15).toNat < 2 ^ State.reset.profile.nport ∧
      2 ^ State.reset.profile.nport ≤ ((prep [(0x07C, 8)] State.reset).reg 15).toNat ∧
      State.reset.profile.sharedLatch = true ∧ State.reset.profile.nport ≤ (3#8).toNat := by
  decide +kernel

/-- A profile with independent latch bits. -/
def independent : State := State.resetOf { Profile.standard with nport := 4, sharedLatch := false }

theorem test_witness_CfgdoneCommits_independent :
    independent.profile.WellFormed ∧ (3#8).toNat < independent.profile.nport ∧
      (independent.reg 15).toNat < 2 ^ independent.profile.nport ∧ independent.profile.sharedLatch = false := by
  decide +kernel

theorem test_witness_FswaitEndsOrWaits :
    State.reset.profile.WellFormed ∧ (0#8).toNat < State.reset.profile.nport ∧
      (State.reset.port (0#8).toNat).lselChg = false ∧ State.reset.pend.getLsbD (0#8).toNat = false ∧
      (scanning 0 0 0 1).pend.getLsbD (0#8).toNat = true ∧ (assigned.port (0#8).toNat).lselChg = true := by
  decide +kernel

theorem test_witness_StandbyStopsOrWaits :
    State.reset.profile.WellFormed ∧ (0#8).toNat < State.reset.profile.nport ∧
      (State.reset.port (0#8).toNat).run = false ∧
      (((scanning 0 0 0 0).port (0#8).toNat).run = true ∧ ((scanning 0 0 0 0).port (0#8).toNat).dspHold = false) := by
  decide +kernel

theorem test_witness_EnableStartsPort :
    State.reset.profile.WellFormed ∧ (2#8).toNat < State.reset.profile.nport ∧
      (((scanning 0 0 0 0).port (2#8).toNat).htotal ≠ 0 ∧ ((scanning 0 0 0 0).port (2#8).toNat).vtotal ≠ 0 ∧
        ((scanning 0 0 0 0).port (2#8).toNat).pclk ≠ 0) ∧
      (State.reset.port (2#8).toNat).htotal = 0 ∧ State.reset.profile.nport ≤ (3#8).toNat := by
  decide +kernel

/-- `s` with one turn on its schedule. -/
def turning (a : Agent) (s : State) : State := { s with schedule := [a] }

/-- Lines 1123 and 1124 of 1125 are the two sides of the wrap. -/
theorem test_witness_LineTickCountsAndLatches :
    (committed.profile.WellFormed ∧ nextAgent (turning (.lineTick 0) committed) = .lineTick 0 ∧
        0 < committed.profile.nport ∧ (committed.port 0).run = true) ∧
      ((committed.port 0).vtotal.toNat ≤ (committed.port 0).vcnt.toNat + 1 ∧ committed.pend.getLsbD 0 = true) ∧
      { committed with pend := 0 }.pend.getLsbD 0 = false ∧
      ((scanning 1123 0 0 1).port 0).vcnt.toNat + 1 < ((scanning 1123 0 0 1).port 0).vtotal.toNat := by
  decide +kernel

theorem test_witness_DspHoldStopsPort :
    standing.profile.WellFormed ∧ nextAgent (turning (.dspHold 0) standing) = .dspHold 0 ∧
      0 < standing.profile.nport ∧ (standing.port 0).stby = true ∧ (standing.port 0).run = true := by
  decide +kernel

theorem test_witness_TimeoutEndsWait :
    standing.profile.WellFormed ∧ nextAgent (turning .timeout standing) = .timeout ∧
      standing.wait = .waiting .dspHold 0 (.standby 0) ∧
      { standing with wait := .waiting .done 1 (.pendbits 3 0) }.wait = .waiting .done 1 (.pendbits 3 0) := by
  decide +kernel

theorem test_witness_ResumeFinishesCommand :
    standing.profile.WellFormed ∧ nextAgent (turning .resume standing) = .resume ∧
      (∀ rest ∈ [Resume.pendbits 3 0, .fswait false 1, .fswait true 1],
        { State.reset with wait := .waiting .done 1 rest }.wait = .waiting .done 1 rest ∧
          State.reset.pend.getLsbD 1 = false) ∧
      (State.reset.portMuxAct = State.reset.portMux) ∧
      ((standing.modPort 0 fun pt => { pt with run := false, dspHold := true }).port 0).dspHold = true := by
  decide +kernel

theorem test_witness_WaitConditionIsStable :
    ∃ t, step { State.reset with wait := .waiting .done 1 (.fswait false 1), schedule := [.lineTick 0] } = .next t ∧
      decide (t.wait = .waiting .done 1 (.fswait false 1) ∧ waitCondition State.reset .done 1 = true) = true :=
  next_of_meets (by decide +kernel)

theorem test_witness_DisabledTurnsPass :
    State.reset.profile.WellFormed ∧
      (nextAgent (turning (.lineTick 0) State.reset) = .lineTick 0 ∧ (State.reset.port 0).run = false) ∧
      (nextAgent (turning (.lineTick 3) State.reset) = .lineTick 3 ∧ State.reset.profile.nport ≤ 3) ∧
      (nextAgent (turning (.dspHold 0) (scanning 0 0 0 0)) = .dspHold 0 ∧ ((scanning 0 0 0 0).port 0).stby = false) ∧
      (nextAgent (turning .timeout State.reset) = .timeout ∧ State.reset.wait = .idle) ∧
      (nextAgent (turning .resume standing) = .resume ∧ standing.wait = .waiting .dspHold 0 (.standby 0) ∧
        waitCondition standing .dspHold 0 = false) := by
  decide +kernel

theorem test_witness_ResetValuesAreTheTable : Profile.standard.WellFormed ∧ independent.profile.WellFormed := by
  decide +kernel

theorem test_witness_ResetEventRestoresAll :
    (turning .reset standing).profile.WellFormed ∧ nextAgent (turning .reset standing) = .reset := by
  decide +kernel

theorem test_witness_AssignmentStaysSound :
    AssignmentSound { migrating with hostOps := [.busWrite 0x008 0x84000001] } ∧
      ∃ t, step { migrating with hostOps := [.busWrite 0x008 0x84000001] } = .next t ∧
        decide (t.layerSel ≠ migrating.layerSel ∨ t.ports ≠ migrating.ports) = true :=
  ⟨⟨by decide +kernel, by decide +kernel, by decide +kernel, by decide +kernel, by decide +kernel, by decide +kernel,
    by decide +kernel⟩, next_of_meets (by decide +kernel)⟩

theorem test_witness_CommitArbiterStaysSound :
    CommitSound (turning (.dspHold 0) standing) ∧
      ∃ t, step (turning (.dspHold 0) standing) = .next t ∧ decide (t.ports ≠ standing.ports) = true :=
  ⟨⟨by decide +kernel, by decide +kernel, by decide +kernel, by decide +kernel⟩, next_of_meets (by decide +kernel)⟩

/-- A block with a derived set of words in `BW_*` and the zeros of reset elsewhere, before a DERIVE of another record. -/
theorem test_witness_ControlWordsStayDerived_words :
    WordsDerived { idleWith (.busWrite 0x008 0xA0000000) with bw := deriveWords passThrough false } ∧
      ∃ t, step { idleWith (.busWrite 0x008 0xA0000000) with bw := deriveWords passThrough false } = .next t ∧
        decide (t.bw ≠ deriveWords passThrough false) = true := by
  refine ⟨⟨.inr ⟨passThrough, false, rfl⟩, fun m hm => ?_, fun w hw => ?_⟩, next_of_meets (by decide +kernel)⟩
  · interval_cases m <;> exact ⟨.inl rfl, .inl rfl⟩
  · interval_cases w <;> exact ⟨.inl rfl, .inl rfl⟩

theorem test_witness_ControlWordsStayDerived :
    (ControlWordsLegal { assigned with hostOps := [.busWrite 0x008 0xA4000000] } ∧
        SlotsOwned { assigned with hostOps := [.busWrite 0x008 0xA4000000] }) ∧
      ∃ t, step { assigned with hostOps := [.busWrite 0x008 0xA4000000] } = .next t ∧
        decide (t.slots ≠ assigned.slots) = true :=
  ⟨by decide +kernel, next_of_meets (by decide +kernel)⟩

theorem test_witness_RecordAndFlagsStaySound :
    (FaultRecordSound (idleWith (.busWrite 0x210 0xFFFFFFFF)) ∧
        FlagsExclusive (idleWith (.busWrite 0x210 0xFFFFFFFF)).flags ∧
        ScalerBitsSound (idleWith (.busWrite 0x210 0xFFFFFFFF))) ∧
      ∃ t, step (idleWith (.busWrite 0x210 0xFFFFFFFF)) = .next t ∧ decide (t.wins ≠ State.reset.wins) = true :=
  ⟨by decide +kernel, next_of_meets (by decide +kernel)⟩

theorem test_witness_ActiveCopiesChangeOnlyAtCommittedBoundary :
    ∃ t, step (turning (.lineTick 0) committed) = .next t ∧
      decide (t.active ≠ (turning (.lineTick 0) committed).active) = true :=
  next_of_meets (by decide +kernel)

theorem test_witness_SeqCountsAcceptedCommands :
    ∃ t, step (State.reset.withFetchWord 32 0) = .next t ∧
      decide (nextAgent (State.reset.withFetchWord 32 0) ≠ .reset ∧ t.seq = 1) = true :=
  next_of_meets (by decide +kernel)

theorem test_witness_SeqCountsAcceptedCommands_accepts : AcceptsCommand (State.reset.withFetchWord 32 0) :=
  ⟨by decide +kernel, by decide +kernel, by decide +kernel, 0, [], by decide +kernel⟩

theorem test_witness_RegistersHaveOneWriter :
    ∃ t, exec (.assign 1) migrating = .next t ∧ decide (t.portMux ≠ migrating.portMux) = true :=
  next_of_meets (by decide +kernel)

end Sys2Proof.Tests
end

section
/-! SUPPORT. Everything one step can do to the block: the elementary changes with their cause, and the step as such a change
after the host's lists, the value read and the count of words are brought up to date. -/

namespace Sys2Proof.Machine

/-- What a change of the block comes from: a command, a bus access that is no command, or an event (60 R350). -/
inductive Cause where
  | command (op : Op)
  | bus
  | lineTick (p : Nat)
  | dspHold (p : Nat)
  | timeout
  | resume
  | reset

/-- The agent whose turn brings a change about (60 R356). -/
def Cause.agent : Cause → Agent
  | .command _ => .host
  | .bus => .host
  | .lineTick p => .lineTick p
  | .dspHold p => .dspHold p
  | .timeout => .timeout
  | .resume => .resume
  | .reset => .reset

/-- The elementary changes of the block and what each may come from, with the facts of the block that it rests on. A result
register, `LOG`, the wait state and the flags that a wait clears are written after another change of the same cause. -/
inductive Change (c : Cause) (s : State) : State → Prop where
  | refl : Change c s s
  | setReg {t : State} (h : Change c s t) (rd : RegNum) (v : Word) : Change c s (t.setReg rd v)
  | setLog {t : State} (h : Change c s t) (l : BitVec 3) : Change c s { t with log := l }
  | setAcfg (a : AlphaConfig) : Change c s { s with acfg := a }
  | fault (f : HardFault) : Change c s (s.raise f)
  | busFault : Change c s s.raiseBus
  | writePort (p : Nat) (r : PortReg) (v : Word) : Change c s (s.modPort p fun pt => Machine.writePort pt r v)
  | writeWindow (w : Nat) (r : WindowReg) (v : Word) :
      Change c s (s.modWin w fun win => Machine.writeWindow s.profile w win r v)
  | prescale (hc : c = .command .prescl) (avg : Bool) (p : Prescale) :
      Change c s { s with flags := s.flags.setPrescale avg p }
  | calibrate (hc : c = .command .sclfac ∨ c = .command .sclauto) (cal : Bool) :
      Change c s { s with flags := s.flags.setCal cal }
  | disable (w : Nat) (sub : Window → SubWindow) :
      Change c s (s.modWin w fun win => { win with en := false, sub := sub win })
  | assign (hc : c = .command .assign) {P : Nat} (hP : P < s.profile.nport) : Change c s (s.assign P)
  | derive (hc : c = .command .derive) : Change c s { s with bw := deriveWords s.acfg false }
  | blend (hc : c = .command .blend) {P : Nat} (hP : P < s.profile.nport) : Change c s (s.blend P)
  | clublend (hc : c = .command .clublend) (w : Nat) :
      Change c s (s.modWin w fun win => { win with clu := deriveWords (clusterConfig win).1 (clusterConfig win).2 })
  | commit (hc : c = .command .cfgdone) {P : Nat} (hP : P < s.profile.nport) {v : Word}
      (hv : v >>> s.profile.nport = 0) :
      Change c s { s with pend := commitPend s.profile.sharedLatch s.pend P (v.extractLsb' 0 4), glbEn := true }
  | startWait {t : State} (h : Change c s t) {op : Op} (hc : c = .command op)
      (hop : op ∈ [Op.pendbits, .pmuxwait, .fswait, .standby]) {w : WaitState}
      (hw : s.profile.WellFormed → PendingSound s → waitFits t w = true) : Change c s { t with wait := w }
  | endWait {t : State} (h : Change c s t) (hc : c = .timeout ∨ c = .resume) : Change c s { t with wait := .idle }
  | clearSelChange {t : State} (h : Change c s t) (hc : c = .command .fswait ∨ c = .resume) (p : Nat) :
      Change c s (t.modPort p fun pt => { pt with lselChg := false })
  | clearHold {t : State} (h : Change c s t) (hc : c = .command .standby ∨ c = .resume) (p : Nat) :
      Change c s (t.modPort p fun pt => { pt with dspHold := false })
  | standby (hc : c = .command .standby) (p : Nat) : Change c s (s.modPort p fun pt => { pt with stby := true })
  | enable (hc : c = .command .enable) (p : Nat) :
      Change c s (s.modPort p fun pt =>
        { pt with stby := false, dspHold := false, run := true, vcnt := if pt.run then pt.vcnt else 0 })
  | count (p : Nat) (hc : c = .lineTick p) (n : Port → BitVec 16) :
      Change c s (s.modPort p fun pt => { pt with vcnt := n pt })
  | boundary (p : Nat) (hc : c = .lineTick p) (hdue : CommittedBoundaryDue s p) :
      Change c s ((s.modPort p fun pt => { pt with vcnt := 0 }).latch p)
  | dspHold (p : Nat) (hc : c = .dspHold p) (hs : (s.port p).stby = true) :
      Change c s (s.modPort p fun pt => { pt with run := false, dspHold := true })
  | reset (hc : c = .reset) : Change c s s.resetEvent

namespace Change

variable {c : Cause} {op : Op} {s t : State}

/-! ## Commands -/

/-- A port command changes what its run changes, or raises `BADINDEX`. -/
theorem withPort {idx : Index} {run : Nat → State}
    (h : idx.toNat < s.profile.nport → Change (.command op) s (run idx.toNat)) :
    Change (.command op) s (s.withPort idx run) := by
  unfold State.withPort
  split
  · next hlt => exact h hlt
  · exact .fault _

/-- A window command changes what its run changes, or raises `BADINDEX`. -/
theorem withWindow {idx : Index} {run : Nat → State}
    (h : idx.toNat < s.profile.nwin → Change (.command op) s (run idx.toNat)) :
    Change (.command op) s (s.withWindow idx run) := by
  unfold State.withWindow
  split
  · next hlt => exact h hlt
  · exact .fault _

/-- The rest of a waiting command writes a register, or on the condition clears the flag it waited for. -/
theorem finish (h : Change c s t) {b : Bool} {rest : Resume}
    (hsel : ∀ cl p, rest = .fswait cl p → b = true → c = .command .fswait ∨ c = .resume)
    (hhold : ∀ p, rest = .standby p → b = true → c = .command .standby ∨ c = .resume) :
    Change c s (t.finish b rest) := by
  cases rest with
  | pendbits rd p => exact h.setReg _ _
  | pmuxwait => exact h
  | fswait cl p =>
    cases b <;> cases cl
    · exact h
    · exact h
    · exact h
    · exact h.clearSelChange (hsel true p rfl rfl) p
  | standby p =>
    cases b
    · exact h
    · exact h.clearHold (hhold p rfl rfl) p

/-- A hold goes on with the rest of the command or enters the wait. -/
theorem hold (h : Change (.command op) s t) {kind : WaitKind} {q : Nat} {rest : Resume}
    (hop : op ∈ [Op.pendbits, .pmuxwait, .fswait, .standby])
    (hw : s.profile.WellFormed → PendingSound s → waitFits t (.waiting kind q rest) = true)
    (hsel : ∀ cl p, rest = .fswait cl p → op = .fswait) (hhold : ∀ p, rest = .standby p → op = .standby) :
    Change (.command op) s (t.hold kind q rest) := by
  unfold State.hold
  split
  · exact h.finish (fun cl p hr _ => .inl (congrArg _ (hsel cl p hr))) fun p hr _ => .inl (congrArg _ (hhold p hr))
  · exact h.startWait rfl hop hw

/-- A register write of the bus or of STR. -/
theorem of_writeReg (name : RegName) (v : Word) : Change c s (writeReg s name v) := by
  rcases writeReg_cases s name v with h | ⟨i, h⟩ | h | h | ⟨p, r, h⟩ | ⟨w, r, h⟩ <;> rw [h]
  · exact .refl
  · exact .setReg .refl i v
  · exact .setAcfg _
  · exact .setLog .refl _
  · exact .writePort p r v
  · exact .writeWindow w r v

theorem of_memWrite {addr : Offset} {v : Word} (h : memWrite s addr v = some t) : Change c s t := by
  obtain ⟨name, -, -, rfl⟩ := (memWrite_eq_some_iff s addr v t).mp h
  exact .of_writeReg name v

theorem of_writeFactor (hc : c = .command .sclfac ∨ c = .command .sclauto) (rd : RegNum) (r : Nat × Bool) :
    Change c s (s.writeFactor rd r) :=
  (Change.calibrate hc r.2).setReg rd _

end Change

/-- The index of the lowest one bit is that of a one bit (00 R12). -/
theorem getLsbD_lowest {n : Nat} {v : BitVec n} (h : v ≠ 0) : v.getLsbD (lowest v) = true := by
  unfold lowest
  cases hf : (List.range n).find? fun i => v.getLsbD i with
  | some i => simpa using List.find?_some hf
  | none =>
    rw [List.find?_eq_none] at hf
    refine absurd (BitVec.eq_of_getLsbD_eq fun i hi => ?_) h
    simpa using hf i (List.mem_range.mpr hi)

/-- More than one bit of four: without the lowest one some bit is left. -/
theorem and_not_bit_lowest_ne_zero {v : BitVec 4} (h : v ≠ 0) (h1 : popcount v ≠ 1) :
    v &&& ~~~(bit 4 (lowest v)) ≠ 0 := by
  revert v; decide

/-- The port that the margin analysis picks is one of the two (44 R295). -/
theorem getLsbD_marginPort {v : BitVec 4} {o1 o2 : Nat} (pt1 pt2 : Port) (h1 : v.getLsbD o1 = true)
    (h2 : v.getLsbD o2 = true) : v.getLsbD (marginPort pt1 pt2 o1 o2) = true := by
  rcases marginPort_cases pt1 pt2 o1 o2 with h | h <;> rw [h]
  · exact h1
  · exact h2

/-- PENDBITS waits only with the shared latch, and for another port that is pending (44 R290, R291). -/
theorem pendbits_hold_cases (s : State) (rd : RegNum) (P : Nat) :
    (∃ v, s.pendbits rd P = s.setReg rd v) ∨ s.pendbits rd P = s.raise .timing ∨
      ∃ q, s.profile.sharedLatch = true ∧ (otherPending s P).getLsbD q = true ∧
        s.pendbits rd P = s.hold .done q (.pendbits rd P) := by
  unfold State.pendbits
  dsimp only
  split
  · exact .inl ⟨_, rfl⟩
  next hshared =>
  have hshared : s.profile.sharedLatch = true := by simpa using hshared
  split
  · exact .inl ⟨_, rfl⟩
  next hne =>
  have h1 : (otherPending s P).getLsbD (lowest (otherPending s P)) = true := getLsbD_lowest hne
  split
  · split
    · exact .inr (.inr ⟨_, hshared, h1, rfl⟩)
    · exact .inl ⟨_, rfl⟩
  next hmany =>
  have h2 := getLsbD_lowest (and_not_bit_lowest_ne_zero hne hmany)
  rw [BitVec.getLsbD_and, Bool.and_eq_true] at h2
  split
  · exact .inr (.inl rfl)
  split
  · exact .inl ⟨_, rfl⟩
  · exact .inr (.inr ⟨_, hshared, getLsbD_marginPort _ _ h1 h2.1, rfl⟩)

/-- Only bits of ports that exist are pending (10 R31). -/
theorem pendingSound_iff (s : State) : PendingSound s ↔ ∀ i, s.profile.nport ≤ i → s.pend.getLsbD i = false := by
  constructor
  · intro h i hi
    exact Nat.testBit_lt_two_pow (h.trans_le (Nat.pow_le_pow_right (by decide) hi))
  · intro h
    exact Nat.lt_pow_two_of_testBit _ fun i hi => h i hi

/-- The wait that PENDBITS enters fits it. -/
theorem waitFits_pendbits {s : State} {rd : RegNum} {P q : Nat} (hP : P < s.profile.nport) (hs : PendingSound s)
    (hshared : s.profile.sharedLatch = true) (hq : (otherPending s P).getLsbD q = true) :
    waitFits s (.waiting .done q (.pendbits rd P)) = true := by
  unfold otherPending at hq
  rw [BitVec.getLsbD_and, Bool.and_eq_true, BitVec.getLsbD_not, getLsbD_bit] at hq
  obtain ⟨hpend, hne⟩ := hq
  have hlt : q < s.profile.nport := by
    by_contra hge
    rw [(pendingSound_iff s).mp hs q (by omega)] at hpend
    cases hpend
  have : q ≠ P := by
    rintro rfl
    simp at hne
  simp [waitFits, hlt, hP, this, hshared]

namespace Change

variable {s t : State}

theorem of_pendbits (rd : RegNum) (p : Index) :
    Change (.command .pendbits) s (s.withPort p fun P => s.pendbits rd P) := by
  refine withPort fun hP => ?_
  rcases pendbits_hold_cases s rd p.toNat with ⟨v, h⟩ | h | ⟨q, hshared, hq, h⟩ <;> rw [h]
  · exact .setReg .refl _ _
  · exact .fault _
  · exact hold .refl (by decide) (fun _ hs => waitFits_pendbits hP hs hshared hq) (fun _ _ hr => nomatch hr)
      fun _ hr => nomatch hr

theorem of_fswait (cl : Bool) (p : Index) :
    Change (.command .fswait) s
      (s.withPort p fun P => if cl && !(s.port P).lselChg then s else s.hold .done P (.fswait cl P)) := by
  refine withPort fun hP => ?_
  split
  · exact .refl
  · exact hold .refl (by decide) (fun _ _ => by simp [waitFits, hP]) (fun _ _ _ => rfl) fun _ hr => nomatch hr

theorem of_standby {i : Index} (h : exec (.standby i) s = .next t) : Change (.command .standby) s t := by
  obtain rfl := Host.Outcome.next.inj h
  refine withPort fun hP => ?_
  have hset := Change.standby (c := .command .standby) (s := s) rfl i.toNat
  dsimp only
  split
  · refine hold hset (by decide) (fun hc _ => ?_) (fun _ _ hr => nomatch hr) fun _ _ => rfl
    have := Profile.nport_le_four hc
    simp [waitFits, hP, show i.toNat < 4 by omega]
  · exact hset.clearHold (.inl rfl) _

/-- Every command is a change that comes from its row of 30 R117. -/
theorem of_exec {i : Instr} (h : exec i s = .next t) : Change (.command i.op) s t := by
  cases i with
  | nop => obtain rfl := Host.Outcome.next.inj h; exact .refl
  | li rd imm => obtain rfl := Host.Outcome.next.inj h; exact .setReg .refl _ _
  | lih rd imm => obtain rfl := Host.Outcome.next.inj h; exact .setReg .refl _ _
  | ldr rd off =>
    simp only [exec, execLdr] at h
    split at h <;> obtain rfl := Host.Outcome.next.inj h
    · exact .fault _
    · exact .setReg .refl _ _
  | str rs off =>
    simp only [exec, execStr] at h
    split at h <;> obtain rfl := Host.Outcome.next.inj h
    · exact .fault _
    · next hm => exact of_memWrite hm
  | sclmode rd rs1 rs2 => obtain rfl := Host.Outcome.next.inj h; exact .setReg .refl _ _
  | prescl rd rs1 rs2 avg =>
    simp only [exec, execPrescl] at h
    split at h <;> obtain rfl := Host.Outcome.next.inj h
    · exact (Change.prescale rfl _ _).setReg _ _
    · exact .fault _
  | sclfac rd rs1 rs2 mode bil =>
    simp only [exec, execSclfac] at h
    split at h
    · obtain rfl := Host.Outcome.next.inj h
      exact .fault _
    · split at h <;> obtain rfl := Host.Outcome.next.inj h
      · exact of_writeFactor (.inl rfl) _ _
      · exact .fault _
  | sclauto rd rs1 rs2 bil =>
    simp only [exec, execSclauto] at h
    split at h <;> obtain rfl := Host.Outcome.next.inj h
    · exact of_writeFactor (.inr rfl) _ _
    · exact .fault _
  | chrdim rd rs1 sub =>
    simp only [exec, execChrdim] at h
    split at h <;> obtain rfl := Host.Outcome.next.inj h
    · exact .fault _
    · exact .setReg .refl _ _
  | windis w =>
    obtain rfl := Host.Outcome.next.inj h
    exact withWindow fun _ => .disable _ _
  | assign p =>
    obtain rfl := Host.Outcome.next.inj h
    refine withPort fun hP => ?_
    split
    · exact .assign rfl hP
    · exact .fault _
  | pmuxwait =>
    obtain rfl := Host.Outcome.next.inj h
    exact hold .refl (by decide) (fun _ _ => rfl) (fun _ _ hr => nomatch hr) fun _ hr => nomatch hr
  | derive => obtain rfl := Host.Outcome.next.inj h; exact .derive rfl
  | blend p =>
    obtain rfl := Host.Outcome.next.inj h
    refine withPort fun hP => ?_
    split
    · exact .fault _
    · exact .blend rfl hP
  | clublend w =>
    obtain rfl := Host.Outcome.next.inj h
    refine withWindow fun _ => ?_
    split
    · exact .clublend rfl _
    · exact .fault _
  | pendbits rd p => obtain rfl := Host.Outcome.next.inj h; exact of_pendbits rd p
  | cfgdone rs p =>
    obtain rfl := Host.Outcome.next.inj h
    refine withPort fun hP => ?_
    dsimp only
    split
    · exact .fault _
    · next hv => exact .commit rfl hP (not_not.mp hv)
  | fswait cl p => obtain rfl := Host.Outcome.next.inj h; exact of_fswait cl p
  | standby p => exact of_standby h
  | enable p =>
    obtain rfl := Host.Outcome.next.inj h
    refine withPort fun _ => ?_
    dsimp only
    split
    · exact .fault _
    · exact .enable rfl _

/-! ## Events -/

theorem of_lineTick (s : State) (p : Nat) : Change (.lineTick p) s (s.lineTick p) := by
  rcases lineTick_cases s p with ⟨-, h⟩ | ⟨-, -, -, h⟩ | ⟨hp, hrun, hwrap, h⟩ <;> rw [h]
  · exact .refl
  · exact .count p rfl _
  · by_cases hpend : s.pend.getLsbD p = true
    · rw [boundary_of_pending (s.modPort p _) hpend]
      exact .boundary p rfl ⟨hp, hrun, hwrap, hpend⟩
    · rw [boundary_of_not_pending (s.modPort p _) (Bool.eq_false_iff.mpr hpend)]
      exact .count p rfl _

theorem of_dspHoldEvent (s : State) (p : Nat) : Change (.dspHold p) s (s.dspHoldEvent p) := by
  rcases dspHoldEvent_cases s p with ⟨-, h⟩ | ⟨-, hs, -, h⟩ <;> rw [h]
  · exact .refl
  · exact .dspHold p rfl hs

theorem of_timeoutEvent (s : State) : Change .timeout s s.timeoutEvent := by
  rcases timeoutEvent_cases s with ⟨-, h⟩ | ⟨kind, q, rest, -, h⟩ <;> rw [h]
  · exact .refl
  · exact finish ((Change.endWait .refl (.inl rfl)).setLog _) (fun _ _ _ hb => nomatch hb) fun _ _ hb => nomatch hb

theorem of_resumeEvent (s : State) : Change .resume s s.resumeEvent := by
  rcases resumeEvent_cases s with ⟨h, -⟩ | ⟨kind, q, rest, -, -, h⟩ <;> rw [h]
  · exact .refl
  · exact finish (.endWait .refl (.inr rfl)) (fun _ _ _ _ => .inr rfl) fun _ _ _ => .inr rfl

end Change

/-! ## The step -/

/-- `s` with other lists of accesses and turns, another value read and another count of words: what a step brings up to
date before the change it makes. -/
def State.booked (s : State) (ops : List HostOp) (turns : List Agent) (read : Option Word) (n : Word) : State :=
  { s with hostOps := ops, schedule := turns, readData := read, seq := n }

/-- What a step does: it counts the word it accepts, if it accepts one, and makes a change that comes from the agent whose
turn it is; a command runs only while no command waits. -/
def StepChange (s t : State) : Prop :=
  ∃ (c : Cause) (ops : List HostOp) (turns : List Agent) (read : Option Word) (n : Word),
    c.agent = nextAgent s ∧ Change c (s.booked ops turns read n) t ∧ (∀ op, c = .command op → s.wait = .idle) ∧
    (AcceptsCommand s → n = s.seq + 1) ∧ (¬ AcceptsCommand s → n = s.seq)

/-- A step that accepts no word counts none. -/
theorem StepChange.of_not_accepts {s t : State} {c : Cause} {ops : List HostOp} {turns : List Agent} {read : Option Word}
    (hch : Change c (s.booked ops turns read s.seq) t) (ha : nextAgent s = c.agent) (hcmd : ∀ op, c ≠ .command op)
    (hacc : ¬ AcceptsCommand s) : StepChange s t :=
  ⟨c, ops, turns, read, s.seq, ha.symm, hch, fun op hop => absurd hop (hcmd op), fun h => absurd h hacc, fun _ => rfl⟩

theorem StepChange.of_event {s t : State} {c : Cause} (hch : Change c s.turned t) (ha : nextAgent s = c.agent)
    (hc : c.agent ≠ .host) : StepChange s t :=
  .of_not_accepts (ops := s.hostOps) (turns := s.schedule.tail) (read := s.readData) hch ha
    (fun _ hop => hc (hop ▸ rfl)) fun ⟨_, hhost, _⟩ => hc (ha.symm.trans hhost)

/-- A bus read gives a value to the host and raises `BADADDR` or changes nothing. -/
theorem busRead_change (addr : Offset) (s : State) :
    ∃ read, Change .bus { s with readData := read } (busRead addr s) := by
  unfold busRead
  split
  · exact ⟨some 0, .busFault⟩
  · exact ⟨some _, .refl⟩

/-- An accepted word is counted before the change it makes. -/
theorem acceptWord_change {bits : Word} {s t : State} (h : acceptWord bits s = .next t) :
    ∃ c : Cause, c.agent = .host ∧ Change c s.countWord t := by
  rcases acceptWord_cases bits s with ⟨e, -, ha⟩ | ⟨i, -, ha⟩ <;> rw [ha] at h
  · obtain rfl := Host.Outcome.next.inj h
    exact ⟨.bus, rfl, .fault _⟩
  · exact ⟨.command i.op, rfl, .of_exec h⟩

/-- The host's turn with a write that is not held. -/
theorem StepChange.of_busWrite {s t : State} {addr : Offset} {v : Word} {rest : List HostOp}
    (hn : HostNext s (.busWrite addr v) rest) (hidle : s.wait = .idle)
    (h : busWrite addr v (s.taken rest) = .next t) : StepChange s t := by
  obtain ⟨hc, ha, hops⟩ := hn
  have hacc : AcceptsCommand s ↔ addr = cmdOffset := by
    constructor
    · rintro ⟨-, -, -, v', rest', hops'⟩
      obtain ⟨hop, -⟩ := List.cons.inj (hops.symm.trans hops')
      exact (HostOp.busWrite.inj hop).1
    · rintro rfl
      exact ⟨hc, ha, hidle, v, rest, hops⟩
  rcases busWrite_cases addr v (s.taken rest) with ⟨hcmd, hw⟩ | ⟨hcmd, -, hw⟩ | ⟨hcmd, u, hm, hw⟩ <;> rw [hw] at h
  · obtain ⟨c, hagent, hch⟩ := acceptWord_change h
    exact ⟨c, rest, s.schedule.tail, s.readData, s.seq + 1, hagent.trans ha.symm, hch, fun _ _ => hidle, fun _ => rfl,
      fun hn => absurd (hacc.mpr hcmd) hn⟩
  · obtain rfl := Host.Outcome.next.inj h
    exact .of_not_accepts (c := .bus) (ops := rest) (turns := s.schedule.tail) (read := s.readData) .busFault ha nofun
      (hcmd ∘ hacc.mp)
  · obtain rfl := Host.Outcome.next.inj h
    exact .of_not_accepts (c := .bus) (ops := rest) (turns := s.schedule.tail) (read := s.readData)
      (.of_memWrite (s := s.taken rest) hm) ha nofun (hcmd ∘ hacc.mp)

/-- Everything a step does. -/
theorem step_change {s t : State} (h : step s = .next t) : s.profile.WellFormed ∧ StepChange s t := by
  obtain ⟨hc, hstep⟩ := step_cases h
  refine ⟨hc, ?_⟩
  have idle (ha : nextAgent s = .host) (hacc : ¬ AcceptsCommand s) : StepChange s s.turned :=
    .of_not_accepts (c := .bus) (ops := s.hostOps) (turns := s.schedule.tail) (read := s.readData) .refl ha nofun hacc
  rcases hstep with ⟨ha, hops, rfl⟩ | ⟨addr, rest, ⟨-, ha, hops⟩, rfl⟩ |
    ⟨addr, v, rest, ⟨-, ha, -⟩, hbusy, rfl⟩ | ⟨addr, v, rest, hn, hidle, hw⟩ | ⟨p, ha, rfl⟩ | ⟨p, ha, rfl⟩ | ⟨ha, rfl⟩ | ⟨ha, rfl⟩ | ⟨ha, rfl⟩
  · exact idle ha fun ⟨_, _, _, v, rest, hw⟩ => by simp [hops] at hw
  · obtain ⟨read, hch⟩ := busRead_change addr (s.taken rest)
    exact .of_not_accepts (c := .bus) (ops := rest) (turns := s.schedule.tail) (read := read) hch ha nofun
      fun ⟨_, _, _, v, rest, hw⟩ => by simp [hops] at hw
  · exact idle ha fun ⟨_, _, hidle, _⟩ => hbusy hidle
  · exact .of_busWrite hn hidle hw
  · exact .of_event (.of_lineTick s.turned p) ha nofun
  · exact .of_event (.of_dspHoldEvent s.turned p) ha nofun
  · exact .of_event (.of_timeoutEvent s.turned) ha nofun
  · exact .of_event (.of_resumeEvent s.turned) ha nofun
  · exact .of_event (.reset (s := s.turned) rfl) ha nofun

end Sys2Proof.Machine
end

section
/-! SUPPORT. What each change leaves alone: for every group of registers, the causes that write it (10_state.md). -/

namespace Sys2Proof.Machine

/-! ## Fields of a port or a window under an update of the bank -/

theorem State.port_modPort_congr {β : Type} (g : Port → β) {f : Port → Port} (h : ∀ pt, g (f pt) = g pt)
    (s : State) (p q : Nat) : g ((s.modPort p f).port q) = g (s.port q) := by
  rw [State.port_modPort]
  split
  · next hq => rw [h, hq.1]
  · rfl

theorem State.win_modWin_congr {β : Type} (g : Window → β) {f : Window → Window} (h : ∀ win, g (f win) = g win)
    (s : State) (w v : Nat) : g ((s.modWin w f).win v) = g (s.win v) := by
  rw [State.win_modWin]
  split
  · next hv => rw [h, hv.1]
  · rfl

/-- A property that every step of a fold keeps. -/
theorem foldl_keeps {α β : Type} {f : β → α → β} {I : β → Prop} (h : ∀ b a, I b → I (f b a)) (l : List α)
    {b : β} (hb : I b) : I (l.foldl f b) := by
  induction l generalizing b with
  | nil => exact hb
  | cons a l ih => exact ih (h b a hb)

/-- `migrate` writes nothing of a port but its mask. -/
theorem migrate_congr {β : Type} (g : Port → β) (hg : ∀ pt m, g { pt with winMask := m } = g pt) (c : Profile)
    (wins : Vector Window 8) (P : Nat) (ports : Vector Port 4) (q : Nat) :
    g (getAt (migrate c wins P ports).1 q) = g (getAt ports q) := by
  have mask (v : Vector Port 4) (r : Nat) (m : Port → BitVec 8) :
      g (getAt (modAt v r fun pt => { pt with winMask := m pt }) q) = g (getAt v q) := by
    rw [getAt_modAt]
    split
    · next h => rw [hg, h.1]
    · rfl
  refine foldl_keeps (I := fun b : Vector Port 4 × BitVec 4 => g (getAt b.1 q) = g (getAt ports q))
    (fun b w hb => ?_) _ rfl
  unfold migrateWindow
  split
  · refine (mask _ P _).trans (foldl_keeps
      (I := fun b : Vector Port 4 × BitVec 4 => g (getAt b.1 q) = g (getAt ports q)) (fun a r ha => ?_) _ hb)
    split
    · exact (mask _ r _).trans ha
    · exact ha
  · exact hb

/-- ASSIGN writes nothing of a port but its mask, its layers, `RANGE_CHG` and `LSEL_CHG` (42 R211 to R216). -/
theorem assign_port_congr {β : Type} (g : Port → β)
    (hg : ∀ pt l r m n w st, g { pt with
      lselChg := l, rangeChg := r, winMask := m, nrLayers := n, wcnt := w, start := st } = g pt)
    (s : State) (P q : Nat) : g ((s.assign P).port q) = g (s.port q) := by
  have hm : g (getAt (migrate s.profile s.wins P s.ports).1 q) = g (s.port q) :=
    migrate_congr g (fun pt m => hg pt pt.lselChg pt.rangeChg m pt.nrLayers pt.wcnt pt.start) _ _ _ _ _
  have hr (lost : BitVec 4) (ports : Vector Port 4) : g (getAt (recount s.profile P lost ports) q) = g (getAt ports q) := by
    rw [getAt_recount]
    split
    · exact hg (getAt ports q) (getAt ports q).lselChg _ (getAt ports q).winMask (getAt ports q).nrLayers _ _
    · rfl
  unfold State.assign State.port
  rw [getAt_modAt]
  split
  · next h => rw [h.1] at hm hr ⊢; exact (hg _ _ _ _ _ _ _).trans ((hr _ _).trans hm)
  · exact (hr _ _).trans hm

/-- A slot as it was, or written by some stage of `P`'s chain (43 R260, R268). -/
def WrittenOrSame (P : Nat) (old new : MixSlot) : Prop :=
  new = old ∨ ∃ a, new = old.written P (deriveWords a false)

theorem WrittenOrSame.writeSlot {P : Nat} {old : MixSlot} {slots : Vector MixSlot 8} {m : Nat}
    (h : WrittenOrSame P old (getAt slots m)) (i : Nat) (a : AlphaConfig) :
    WrittenOrSame P old (getAt (writeSlot slots P i (deriveWords a false)) m) := by
  unfold Machine.writeSlot
  rw [getAt_modAt]
  split
  · next hm =>
    refine .inr ⟨a, ?_⟩
    rcases h with h | ⟨b, h⟩ <;> rw [← hm.1, h] <;> rfl
  · exact h

/-- BLEND writes slots with derived words for its port, whatever its ranges are. -/
theorem blend_slot_cases (s : State) (P m : Nat) : WrittenOrSame P (s.slot m) ((s.blend P).slot m) :=
  foldl_keeps (I := fun slots => WrittenOrSame P (s.slot m) (getAt slots m)) (fun _ i h => h.writeSlot i _) _
    (foldl_keeps (I := fun slots => WrittenOrSame P (s.slot m) (getAt slots m)) (fun _ _ h => h.writeSlot _ _) _ (.inl rfl))

theorem WrittenOrSame.act_eq {P : Nat} {old new : MixSlot} (h : WrittenOrSame P old new) : new.act = old.act := by
  rcases h with rfl | ⟨a, rfl⟩ <;> rfl

/-- A frame boundary writes nothing of a window but its active copies (44 R320). -/
theorem latch_win_congr {β : Type} (g : Window → β) (hg : ∀ win a b, g { win with sclAct := a, cluAct := b } = g win)
    (s : State) (p w : Nat) : g ((s.latch p).win w) = g (s.win w) := by
  rw [latch_win]
  split
  · unfold latchWindow
    split
    · exact hg _ _ _
    · rfl
  · rfl

/-- An update of a window outside its active copies. -/
theorem active_modWin {f : Window → Window} (h : ∀ win, (f win).sclAct = win.sclAct ∧ (f win).cluAct = win.cluAct)
    (s : State) (w : Nat) : (s.modWin w f).active = s.active := by
  have hscl := State.win_modWin_congr Window.sclAct (fun win => (h win).1) s w
  have hclu := State.win_modWin_congr Window.cluAct (fun win => (h win).2) s w
  unfold State.active
  simp only [hscl, hclu]
  rfl

/-- BLEND writes staged words only (10 R60). -/
theorem active_blend (s : State) (P : Nat) : (s.blend P).active = s.active := by
  unfold State.active
  simp only [(blend_slot_cases s P _).act_eq]
  rfl

/-- The fields of a port that ASSIGN computes (10 R35, R39, R40). -/
def Port.layout (pt : Port) : BitVec 8 × BitVec 4 × BitVec 4 × BitVec 4 × Bool :=
  (pt.winMask, pt.nrLayers, pt.wcnt, pt.start, pt.rangeChg)

/-- `STBY` and `DSPHOLD` (10 R35). -/
def Port.handshake (pt : Port) : Bool × Bool := (pt.stby, pt.dspHold)

/-- `RUN` and the line count (10 R35, R38). -/
def Port.scan (pt : Port) : Bool × BitVec 16 := (pt.run, pt.vcnt)

theorem writePort_congr {β : Type} (g : Port → β)
    (hg : ∀ pt h v k, g { pt with htotal := h, vtotal := v, pclk := k } = g pt) (pt : Port) (r : PortReg) (v : Word) :
    g (writePort pt r v) = g pt := by
  cases r with
  | timing => exact hg pt _ _ pt.pclk
  | pclk => exact hg pt pt.htotal pt.vtotal _
  | _ => rfl

theorem and_or_self_left {n : Nat} (a b : BitVec n) : a &&& (a ||| b) = a := by
  apply BitVec.eq_of_getLsbD_eq
  intro i _
  simp only [BitVec.getLsbD_and, BitVec.getLsbD_or]
  cases a.getLsbD i <;> simp

namespace Change

variable {c : Cause} {s t : State}

/-! ## Who writes what -/

theorem profile_eq (h : Change c s t) : t.profile = s.profile := by
  induction h with
  | setReg _ _ _ ih | setLog _ _ ih | startWait _ _ _ _ ih | endWait _ _ ih | clearSelChange _ _ _ ih
  | clearHold _ _ _ ih => exact ih
  | _ => rfl

theorem seq_eq (h : Change c s t) : t.seq = s.seq ∨ c = .reset := by
  induction h with
  | setReg _ _ _ ih | setLog _ _ ih | startWait _ _ _ _ ih | endWait _ _ ih | clearSelChange _ _ _ ih
  | clearHold _ _ _ ih => exact ih
  | reset hc => exact .inr hc
  | _ => exact .inl rfl

/-- `FLAGS` (10 R23): PRESCL writes bits 3:0, SCLFAC and SCLAUTO write bit 4. -/
theorem flags_eq (h : Change c s t) :
    t.flags = s.flags ∨ (c = .command .prescl ∧ t.flags.cal = s.flags.cal) ∨
      ((c = .command .sclfac ∨ c = .command .sclauto) ∧ { t.flags with cal := s.flags.cal } = s.flags) ∨
      c = .reset := by
  induction h with
  | setReg _ _ _ ih | setLog _ _ ih | startWait _ _ _ _ ih | endWait _ _ ih | clearSelChange _ _ _ ih
  | clearHold _ _ _ ih => exact ih
  | prescale hc => exact .inr (.inl ⟨hc, rfl⟩)
  | calibrate hc => exact .inr (.inr (.inl ⟨hc, rfl⟩))
  | reset hc => exact .inr (.inr (.inr hc))
  | _ => exact .inl rfl

theorem bw_eq (h : Change c s t) : t.bw = s.bw ∨ c = .command .derive ∨ c = .reset := by
  induction h with
  | setReg _ _ _ ih | setLog _ _ ih | startWait _ _ _ _ ih | endWait _ _ ih | clearSelChange _ _ _ ih
  | clearHold _ _ _ ih => exact ih
  | derive hc => exact .inr (.inl hc)
  | reset hc => exact .inr (.inr hc)
  | _ => exact .inl rfl

theorem selector_eq (h : Change c s t) :
    (t.layerSel = s.layerSel ∧ t.portMux = s.portMux) ∨ c = .command .assign ∨ c = .reset := by
  induction h with
  | setReg _ _ _ ih | setLog _ _ ih | startWait _ _ _ _ ih | endWait _ _ ih | clearSelChange _ _ _ ih
  | clearHold _ _ _ ih => exact ih
  | assign hc => exact .inr (.inl hc)
  | reset hc => exact .inr (.inr hc)
  | _ => exact .inl ⟨rfl, rfl⟩

theorem slots_eq (h : Change c s t) :
    t.slots = s.slots ∨ c = .command .blend ∨ (∃ p, c = .lineTick p) ∨ c = .reset := by
  induction h with
  | setReg _ _ _ ih | setLog _ _ ih | startWait _ _ _ _ ih | endWait _ _ ih | clearSelChange _ _ _ ih
  | clearHold _ _ _ ih => exact ih
  | blend hc => exact .inr (.inl hc)
  | boundary _ hc => exact .inr (.inr (.inl ⟨_, hc⟩))
  | reset hc => exact .inr (.inr (.inr hc))
  | _ => exact .inl rfl

theorem pending_eq (h : Change c s t) :
    (t.pend = s.pend ∧ t.glbEn = s.glbEn) ∨ c = .command .cfgdone ∨ (∃ p, c = .lineTick p) ∨ c = .reset := by
  induction h with
  | setReg _ _ _ ih | setLog _ _ ih | startWait _ _ _ _ ih | endWait _ _ ih | clearSelChange _ _ _ ih
  | clearHold _ _ _ ih => exact ih
  | commit hc => exact .inr (.inl hc)
  | boundary _ hc => exact .inr (.inr (.inl ⟨_, hc⟩))
  | reset hc => exact .inr (.inr (.inr hc))
  | _ => exact .inl ⟨rfl, rfl⟩

theorem wait_eq (h : Change c s t) :
    t.wait = s.wait ∨ (∃ op ∈ [Op.pendbits, .pmuxwait, .fswait, .standby], c = .command op) ∨ c = .timeout ∨
      c = .resume ∨ c = .reset := by
  induction h with
  | setReg _ _ _ ih | setLog _ _ ih | clearSelChange _ _ _ ih | clearHold _ _ _ ih => exact ih
  | startWait _ hc hop => exact .inr (.inl ⟨_, hop, hc⟩)
  | endWait _ hc => exact .inr (.inr (hc.imp_right .inl))
  | reset hc => exact .inr (.inr (.inr (.inr hc)))
  | _ => exact .inl rfl

/-- The staged words of the inner stages (10 R54). -/
theorem clu_eq (h : Change c s t) : (∀ w, (t.win w).clu = (s.win w).clu) ∨ c = .command .clublend ∨ c = .reset := by
  induction h with
  | setReg _ _ _ ih | setLog _ _ ih | startWait _ _ _ _ ih | endWait _ _ ih | clearSelChange _ _ _ ih
  | clearHold _ _ _ ih => exact ih
  | writeWindow w r v =>
    exact .inl (State.win_modWin_congr Window.clu (fun win => (writeWindow_same _ _ win r v).2.1) s w)
  | disable w => exact .inl (State.win_modWin_congr Window.clu (fun _ => by rfl) s w)
  | clublend hc => exact .inr (.inl hc)
  | boundary => exact .inl (latch_win_congr Window.clu (fun _ _ _ => rfl) _ _)
  | reset hc => exact .inr (.inr hc)
  | _ => exact .inl fun _ => rfl

/-- The masks, layers, ranges and `RANGE_CHG` of the ports (10 R35, R39, R40). -/
theorem layout_eq (h : Change c s t) :
    (∀ q, (t.port q).layout = (s.port q).layout) ∨ c = .command .assign ∨ c = .reset := by
  induction h with
  | setReg _ _ _ ih | setLog _ _ ih | startWait _ _ _ _ ih | endWait _ _ ih => exact ih
  | writePort p r v =>
    exact .inl (State.port_modPort_congr Port.layout (fun pt => writePort_congr _ (fun _ _ _ _ => rfl) pt r v) s p)
  | assign hc => exact .inr (.inl hc)
  | clearSelChange _ _ p ih | clearHold _ _ p ih =>
    exact ih.imp_left fun ih q => (State.port_modPort_congr Port.layout (fun _ => by rfl) _ p q).trans (ih q)
  | standby _ p | enable _ p | count p | boundary p | dspHold p =>
    exact .inl (State.port_modPort_congr Port.layout (fun _ => by rfl) s p)
  | reset hc => exact .inr (.inr hc)
  | _ => exact .inl fun _ => rfl

theorem lselChg_eq (h : Change c s t) :
    (∀ q, (t.port q).lselChg = (s.port q).lselChg) ∨ c = .command .assign ∨ c = .command .fswait ∨ c = .resume ∨
      c = .reset := by
  induction h with
  | setReg _ _ _ ih | setLog _ _ ih | startWait _ _ _ _ ih | endWait _ _ ih => exact ih
  | writePort p r v =>
    exact .inl (State.port_modPort_congr Port.lselChg (fun pt => writePort_congr _ (fun _ _ _ _ => rfl) pt r v) s p)
  | assign hc => exact .inr (.inl hc)
  | clearSelChange _ hc => exact .inr (.inr (hc.imp_right .inl))
  | clearHold _ _ p ih =>
    exact ih.imp_left fun ih q => (State.port_modPort_congr Port.lselChg (fun _ => by rfl) _ p q).trans (ih q)
  | standby _ p | enable _ p | count p | boundary p | dspHold p =>
    exact .inl (State.port_modPort_congr Port.lselChg (fun _ => by rfl) s p)
  | reset hc => exact .inr (.inr (.inr (.inr hc)))
  | _ => exact .inl fun _ => rfl

/-- `STBY` and `DSPHOLD` of the ports (10 R35). -/
theorem handshake_eq (h : Change c s t) :
    (∀ q, (t.port q).handshake = (s.port q).handshake) ∨
      c = .command .standby ∨ c = .command .enable ∨ (∃ p, c = .dspHold p) ∨ c = .resume ∨ c = .reset := by
  induction h with
  | setReg _ _ _ ih | setLog _ _ ih | startWait _ _ _ _ ih | endWait _ _ ih => exact ih
  | writePort p r v =>
    exact .inl (State.port_modPort_congr Port.handshake
      (fun pt => writePort_congr _ (fun _ _ _ _ => rfl) pt r v) s p)
  | assign => exact .inl (assign_port_congr Port.handshake (fun _ _ _ _ _ _ _ => rfl) s _)
  | clearSelChange _ _ p ih =>
    exact ih.imp_left fun ih q =>
      (State.port_modPort_congr Port.handshake (fun _ => by rfl) _ p q).trans (ih q)
  | clearHold _ hc => exact .inr (hc.imp_right fun hc => .inr (.inr (.inl hc)))
  | standby hc => exact .inr (.inl hc)
  | enable hc => exact .inr (.inr (.inl hc))
  | dspHold _ hc => exact .inr (.inr (.inr (.inl ⟨_, hc⟩)))
  | count p | boundary p =>
    exact .inl (State.port_modPort_congr Port.handshake (fun _ => by rfl) s p)
  | reset hc => exact .inr (.inr (.inr (.inr (.inr hc))))
  | _ => exact .inl fun _ => rfl

/-- `RUN` and the line counts of the ports (10 R35, R38). -/
theorem scan_eq (h : Change c s t) :
    (∀ q, (t.port q).scan = (s.port q).scan) ∨
      c = .command .enable ∨ (∃ p, c = .lineTick p) ∨ (∃ p, c = .dspHold p) ∨ c = .reset := by
  induction h with
  | setReg _ _ _ ih | setLog _ _ ih | startWait _ _ _ _ ih | endWait _ _ ih => exact ih
  | writePort p r v =>
    exact .inl (State.port_modPort_congr Port.scan
      (fun pt => writePort_congr _ (fun _ _ _ _ => rfl) pt r v) s p)
  | assign => exact .inl (assign_port_congr Port.scan (fun _ _ _ _ _ _ _ => rfl) s _)
  | clearSelChange _ _ p ih | clearHold _ _ p ih =>
    exact ih.imp_left fun ih q =>
      (State.port_modPort_congr Port.scan (fun _ => by rfl) _ p q).trans (ih q)
  | standby _ p => exact .inl (State.port_modPort_congr Port.scan (fun _ => by rfl) s p)
  | enable hc => exact .inr (.inl hc)
  | count _ hc | boundary _ hc => exact .inr (.inr (.inl ⟨_, hc⟩))
  | dspHold _ hc => exact .inr (.inr (.inr (.inl ⟨_, hc⟩)))
  | reset hc => exact .inr (.inr (.inr (.inr hc)))
  | _ => exact .inl fun _ => rfl

/-- The active copies change at a committed frame boundary or by reset (10 R60). -/
theorem active_eq (h : Change c s t) :
    t.active = s.active ∨ c = .reset ∨ ∃ p, c = .lineTick p ∧ CommittedBoundaryDue s p := by
  induction h with
  | setReg _ _ _ ih | setLog _ _ ih | startWait _ _ _ _ ih | endWait _ _ ih | clearSelChange _ _ _ ih
  | clearHold _ _ _ ih => exact ih
  | writeWindow w r v =>
    refine .inl (active_modWin (fun win => ?_) s w)
    obtain ⟨hscl, -, hclu⟩ := writeWindow_same s.profile w win r v
    exact ⟨hscl, hclu⟩
  | disable w | clublend _ w => exact .inl (active_modWin (fun _ => by exact ⟨rfl, rfl⟩) s w)
  | blend => exact .inl (active_blend s _)
  | boundary _ hc hdue => exact .inr (.inr ⟨_, hc, hdue⟩)
  | reset hc => exact .inr (.inl hc)
  | _ => exact .inl rfl

/-- A fault bit stays and the first record stays, whatever comes later (10 R28, R29). -/
theorem fault_sticky (h : Change c s t) (hc : c ≠ .reset) :
    s.fault &&& t.fault = s.fault ∧ (s.faultInfo ≠ 0 → t.faultInfo = s.faultInfo) := by
  induction h with
  | setReg _ _ _ ih | setLog _ _ ih | startWait _ _ _ _ ih | endWait _ _ ih | clearSelChange _ _ _ ih
  | clearHold _ _ _ ih => exact ih
  | fault | busFault => exact ⟨and_or_self_left _ _, fun h => if_neg h⟩
  | reset h => exact absurd h hc
  | _ => exact ⟨BitVec.and_self, fun _ => rfl⟩

end Change

/-! ## The obligations that follow -/

/-- Settles O24: every change but reset only adds fault bits and fills an empty record. -/
theorem faultRecordIsSticky : Obligations.FaultRecordIsSticky := by
  intro s t h hreset
  obtain ⟨-, c, ops, turns, read, n, ha, hch, -⟩ := step_change h
  exact hch.fault_sticky (by rintro rfl; exact hreset ha.symm)

/-- Settles O58, by the active copies of every change. -/
theorem activeCopiesChangeOnlyAtCommittedBoundary : Obligations.ActiveCopiesChangeOnlyAtCommittedBoundary := by
  intro s t h hne
  obtain ⟨-, c, ops, turns, read, n, ha, hch, -⟩ := step_change h
  rcases hch.active_eq with heq | rfl | ⟨p, rfl, hdue⟩
  · exact absurd heq hne
  · exact .inl ha.symm
  · exact .inr ⟨p, ha.symm, hdue⟩

/-- Settles O59: a step counts the word it accepts, and no change but reset writes `SEQ`. -/
theorem seqCountsAcceptedCommands : Obligations.SeqCountsAcceptedCommands := by
  intro s t h
  obtain ⟨-, c, ops, turns, read, n, ha, hch, -, hacc, hnot⟩ := step_change h
  have hseq (hreset : nextAgent s ≠ .reset) : t.seq = n :=
    hch.seq_eq.resolve_right (by rintro rfl; exact hreset ha.symm)
  exact ⟨hch.profile_eq, fun hr h => (hseq hr).trans (hacc h), fun hr h => (hseq hr).trans (hnot h)⟩

/-- Settles O60: a command is a change of its row, and each group of registers has the causes that write it. -/
theorem registersHaveOneWriter : Obligations.RegistersHaveOneWriter := by
  intro i s t h
  have hch := Change.of_exec h
  have hflags := hch.flags_eq
  have hbw := hch.bw_eq
  have hsel := hch.selector_eq
  have hslots := hch.slots_eq
  have hclu := hch.clu_eq
  have hlayout := hch.layout_eq
  have hlsel := hch.lselChg_eq
  have hhand := hch.handshake_eq
  have hscan := hch.scan_eq
  have hpend := hch.pending_eq
  have hwait := hch.wait_eq
  have hact := hch.active_eq
  have hseq := hch.seq_eq
  simp only [Cause.command.injEq, reduceCtorEq, or_false, exists_false, false_and, Port.layout, Port.handshake,
    Port.scan, Prod.mk.injEq] at *
  refine ⟨fun hne => ?_, fun hop => ?_, fun hop => ?_, hbw.resolve_left, fun hne => ?_, hslots.resolve_left,
    fun ⟨w, hne⟩ => ?_, fun ⟨q, hne⟩ => ?_, fun ⟨q, hne⟩ => ?_, fun ⟨q, hne⟩ => ?_, fun ⟨q, hne⟩ => ?_, fun hne => ?_,
    fun hne => ?_, hact, hseq⟩
  · exact (hflags.resolve_left hne).imp (·.1) (·.1)
  · rcases hflags with heq | ⟨-, hcal⟩ | ⟨h', -⟩
    · rw [heq]
    · exact hcal
    · simp [hop] at h'
  · rcases hflags with heq | ⟨h', -⟩ | ⟨-, hrest⟩
    · rw [heq]
    · simp [h'] at hop
    · exact hrest
  · rcases hne with hne | hne | ⟨q, hne⟩
    · exact hsel.resolve_left fun heq => hne heq.1
    · exact hsel.resolve_left fun heq => hne heq.2
    · exact hlayout.resolve_left fun heq => hne (heq q).1
  · exact hclu.resolve_left fun heq => hne (heq w)
  · exact hlayout.resolve_left fun heq => by simp [heq q] at hne
  · exact hlsel.resolve_left fun heq => hne (heq q)
  · exact hhand.resolve_left fun heq => by simp [heq q] at hne
  · exact hscan.resolve_left fun heq => by simp [heq q] at hne
  · exact hpend.resolve_left fun heq => by simp [heq] at hne
  · simpa using hwait.resolve_left hne

end Sys2Proof.Machine
end

section
/-! SUPPORT. The state after reset (10_state.md R64) field by field, and the invariants it meets. -/

namespace Sys2Proof.Machine

variable {c : Profile}

theorem resetOf_port (c : Profile) {p : Nat} (hp : p < 4) : (State.resetOf c).port p = Port.reset := getAt_replicate _ hp

theorem resetOf_win (c : Profile) {w : Nat} (hw : w < 8) : (State.resetOf c).win w = Window.reset := getAt_replicate _ hw

theorem resetOf_slot (c : Profile) {m : Nat} (hm : m < 8) : (State.resetOf c).slot m = MixSlot.reset := getAt_replicate _ hm

/-- Layer `l` holds the window of its own index (10 R32). -/
theorem getAt_resetLayerSel (hc : c.WellFormed) {l : Nat} (hl : l < c.nlayer) : getAt (resetLayerSel c) l = selCode c l := by
  have h8 : l < 8 := by
    have := Profile.nwin_le_eight hc
    have := Profile.nlayer_eq_nwin hc
    omega
  simp [resetLayerSel, selCode, getAt, h8, hl]

/-- Every port holds the code of no window (10 R33). -/
theorem getAt_resetPortMux (hc : c.WellFormed) {p : Nat} (hp : p < c.nport) : getAt (resetPortMux c) p = 8 := by
  have h4 := Profile.nport_le_four hc
  have hp4 : p < 4 := by omega
  interval_cases p <;> simp [resetPortMux, getAt, hp]

/-- No window is in a mask. -/
theorem windowCount_reset {p : Nat} (hp : p < 4) : windowCount (Vector.replicate 4 Port.reset) p = 0 := by
  unfold windowCount
  rw [getAt_replicate _ hp]
  rfl

theorem startOf_reset {p : Nat} (hp : p ≤ 4) : startOf (Vector.replicate 4 Port.reset) p = 0 := by
  unfold startOf
  rw [List.sum_eq_zero_iff]
  intro n hn
  obtain ⟨q, hq, rfl⟩ := List.mem_map.mp hn
  exact windowCount_reset (by have := List.mem_range.mp hq; omega)

theorem resetLayerSel_sound (hc : c.WellFormed) : SelectorSound c (resetLayerSel c) := by
  have hn := Profile.nlayer_eq_nwin hc
  constructor
  · intro l hl
    exact ⟨l, hn ▸ hl, getAt_resetLayerSel hc hl⟩
  · intro w hw
    refine ⟨w, hn ▸ hw, getAt_resetLayerSel hc (hn ▸ hw), fun l hl he => ?_⟩
    rw [getAt_resetLayerSel hc hl] at he
    exact Profile.selCode_inj hc (hn ▸ hl) hw he

theorem resetOf_assignmentSound (hc : c.WellFormed) : AssignmentSound (State.resetOf c) := by
  have h4 := Profile.nport_le_four hc
  have port {p : Nat} (hp : p < (State.resetOf c).profile.nport) : (State.resetOf c).port p = Port.reset :=
    resetOf_port c (lt_of_lt_of_le hp h4)
  refine ⟨hc, ⟨fun p hp w _ _ => ?_, fun p hp q hq _ => ?_⟩, fun p hp => ?_, fun p hp => ?_, fun p hp _ => ?_,
    resetLayerSel_sound hc, resetLayerSel_sound hc⟩
  · rw [port hp]; exact BitVec.getLsbD_zero
  · rw [port hp, port hq]; rfl
  · rw [port hp]
    exact ⟨(windowCount_reset (lt_of_lt_of_le hp h4)).symm, (startOf_reset (le_trans (le_of_lt hp) h4)).symm⟩
  · rw [port hp]
    exact congrArg BitVec.toNat (getAt_resetPortMux hc hp)
  · rw [port hp]; rfl

theorem resetOf_portControlSound (hc : c.WellFormed) : PortControlSound (State.resetOf c) := by
  intro p hp
  rw [resetOf_port c (lt_of_lt_of_le hp (Profile.nport_le_four hc))]
  exact ⟨.inl rfl, nofun⟩

theorem resetOf_commitSound (hc : c.WellFormed) : CommitSound (State.resetOf c) :=
  ⟨hc, Nat.two_pow_pos _, resetOf_portControlSound hc, rfl⟩

theorem resetOf_wordsDerived (c : Profile) : WordsDerived (State.resetOf c) := by
  refine ⟨.inl rfl, fun m hm => ?_, fun w hw => ?_⟩
  · rw [resetOf_slot c hm]; exact ⟨.inl rfl, .inl rfl⟩
  · rw [resetOf_win c hw]; exact ⟨.inl rfl, .inl rfl⟩

theorem resetOf_controlWordsLegal (c : Profile) : ControlWordsLegal (State.resetOf c) := by
  have hzero : legalWords .zero = true := by decide
  refine ⟨hzero, fun m hm => ?_, fun w hw => ?_⟩
  · rw [resetOf_slot c hm]; exact ⟨hzero, hzero⟩
  · rw [resetOf_win c hw]; exact ⟨hzero, hzero⟩

theorem resetOf_slotsOwned (hc : c.WellFormed) : SlotsOwned (State.resetOf c) := by
  intro m hm
  have h8 : m < 8 := lt_of_lt_of_le hm (Profile.nmixer_eq_nwin hc ▸ Profile.nwin_le_eight hc)
  rw [resetOf_slot c h8]
  exact ⟨fun _ => ⟨rfl, rfl⟩, nofun⟩

theorem resetOf_scalerBitsSound (hc : c.WellFormed) : ScalerBitsSound (State.resetOf c) := by
  intro w hw r _
  rw [resetOf_win c (lt_of_lt_of_le hw (Profile.nwin_le_eight hc))]
  cases r <;> exact BitVec.zero_and

/-- Settles O53, one invariant after the other. -/
theorem resetStateIsSound : Obligations.ResetStateIsSound :=
  ⟨by decide, fun c hc => ⟨resetOf_assignmentSound hc, resetOf_commitSound hc, resetOf_wordsDerived c,
    resetOf_controlWordsLegal c, resetOf_slotsOwned hc, ⟨fun _ => rfl, fun _ => rfl⟩, Nat.zero_le 1,
    resetOf_scalerBitsSound hc⟩⟩

end Sys2Proof.Machine
end

section
/-! SUPPORT. The invariants of the commit arbiter, the control words, the fault record and the scaling registers, kept by
every change and so by every step (10_state.md R28 to R31, R46 to R55, R62). -/

namespace Sys2Proof.Machine

/-- What every change keeps, every step keeps, if it reads nothing of the host's lists, the value read and `SEQ`. -/
theorem step_keeps {I : State → Prop} (hbook : ∀ s ops turns read n, I s → I (State.booked s ops turns read n))
    (hchange : ∀ {c s t}, s.profile.WellFormed → (∀ op, c = .command op → s.wait = .idle) → Change c s t →
      I s → I t)
    {s t : State} (h : step s = .next t) (hs : I s) : I t := by
  obtain ⟨hc, c, ops, turns, read, n, -, hch, hidle, -⟩ := step_change h
  exact hchange (s := s.booked ops turns read n) hc hidle hch (hbook s ops turns read n hs)

theorem ports_modPort {I : Port → Prop} {s : State} {n p : Nat} {f : Port → Port} (h : ∀ q < n, I (s.port q))
    (hf : I (s.port p) → I (f (s.port p))) : ∀ q < n, I ((s.modPort p f).port q) := by
  intro q hq
  rw [State.port_modPort]
  split
  · next he => exact hf (he.1 ▸ h q hq)
  · exact h q hq

theorem wins_modWin {I : Window → Prop} {s : State} {n w : Nat} {f : Window → Window} (h : ∀ v < n, I (s.win v))
    (hf : I (s.win w) → I (f (s.win w))) : ∀ v < n, I ((s.modWin w f).win v) := by
  intro v hv
  rw [State.win_modWin]
  split
  · next he => exact hf (he.1 ▸ h v hv)
  · exact h v hv

/-! ## The commit arbiter -/

/-- A commit of a port that exists, with the bits of existing ports carried, leaves only such bits pending (44 R300). -/
theorem pendingSound_commit {s : State} {P : Nat} {v : Word} (hP : P < s.profile.nport) (hv : v >>> s.profile.nport = 0)
    (hs : PendingSound s) :
    PendingSound { s with pend := commitPend s.profile.sharedLatch s.pend P (v.extractLsb' 0 4), glbEn := true } := by
  rw [pendingSound_iff] at hs ⊢
  intro i hi
  have hbit : (bit 4 P).getLsbD i = false := by
    rw [getLsbD_bit, decide_eq_false_iff_not]
    rintro ⟨-, rfl⟩
    exact absurd hP (Nat.not_lt.mpr hi)
  have hvi : v.getLsbD i = false := by
    have := congrArg (fun u : Word => u.getLsbD (i - s.profile.nport)) hv
    simpa [BitVec.getLsbD_ushiftRight, Nat.add_sub_cancel' hi] using this
  dsimp only
  unfold commitPend
  split
  · simp [hbit, hvi]
  · simp [maskedWrite, hbit, hs i hi]

/-- The port control bits agree: out of standby it runs, and running it shows no dsp-hold (44 R310, R315, 60 R352). -/
def Port.ControlSound (pt : Port) : Prop :=
  (pt.stby = true ∨ pt.run = true) ∧ (pt.run = true → pt.dspHold = false)

/-- A wait fits a state as long as the profile stays and no port leaves standby. -/
theorem waitFits_mono {s t : State} {w : WaitState} (hprofile : t.profile = s.profile)
    (hstby : ∀ p, (s.port p).stby = true → (t.port p).stby = true) (h : waitFits s w = true) : waitFits t w = true := by
  unfold waitFits at h ⊢
  split at h
  · rfl
  · simpa [hprofile] using h
  · exact h
  · simpa [hprofile] using h
  · simp only [hprofile, Bool.and_eq_true] at h ⊢
    exact ⟨h.1, hstby _ h.2⟩

namespace Change

variable {c : Cause} {s t : State}

theorem pendingSound (h : Change c s t) (hs : PendingSound s) : PendingSound t := by
  induction h with
  | setReg _ _ _ ih | setLog _ _ ih | startWait _ _ _ _ ih | endWait _ _ ih | clearSelChange _ _ _ ih
  | clearHold _ _ _ ih => exact ih
  | commit _ hP hv => exact pendingSound_commit hP hv hs
  | boundary p =>
    rw [pendingSound_iff] at hs ⊢
    intro i hi
    simp [hs i hi]
  | reset => exact Nat.two_pow_pos _
  | _ => exact hs

theorem portControlSound (h : Change c s t) (hc : s.profile.WellFormed) (hs : PortControlSound s) : PortControlSound t := by
  have hs : ∀ q < s.profile.nport, (s.port q).ControlSound := hs
  suffices ∀ q < s.profile.nport, (t.port q).ControlSound by
    rw [← h.profile_eq] at this
    exact this
  induction h with
  | setReg _ _ _ ih | setLog _ _ ih | startWait _ _ _ _ ih | endWait _ _ ih => exact ih
  | writePort p r v =>
    exact ports_modPort hs (writePort_congr Port.ControlSound (fun _ _ _ _ => rfl) _ r v ▸ id)
  | assign => exact fun q hq => assign_port_congr Port.ControlSound (fun _ _ _ _ _ _ _ => rfl) s _ q ▸ hs q hq
  | clearSelChange _ _ p ih => exact ports_modPort ih id
  | clearHold _ _ p ih => exact ports_modPort ih fun ⟨hon, _⟩ => ⟨hon, fun _ => rfl⟩
  | standby _ p => exact ports_modPort hs fun ⟨_, hoff⟩ => ⟨.inl rfl, hoff⟩
  | enable _ p => exact ports_modPort hs fun _ => ⟨.inr rfl, fun _ => rfl⟩
  | count p | boundary p => exact ports_modPort hs id
  | dspHold p _ hstby => exact ports_modPort hs fun _ => ⟨.inl hstby, nofun⟩
  | reset => exact resetOf_portControlSound hc
  | _ => exact hs

/-- A change keeps a wait fitting; a command, which may take a port out of standby, runs only while nothing waits. -/
theorem waitFits (h : Change c s t) (hc : s.profile.WellFormed) (hidle : ∀ op, c = .command op → s.wait = .idle)
    (hpend : PendingSound s) (hs : Machine.waitFits s s.wait = true) : Machine.waitFits t t.wait = true := by
  have same {u : State} {p : Nat} {f : Port → Port} (hf : ∀ pt, pt.stby = true → (f pt).stby = true)
      (hu : Machine.waitFits u u.wait = true) : Machine.waitFits (u.modPort p f) u.wait = true := by
    refine waitFits_mono (s := u) rfl (fun q hq => ?_) hu
    rw [State.port_modPort]
    split
    · next he => exact hf _ (he.1 ▸ hq)
    · exact hq
  induction h with
  | setReg _ _ _ ih | setLog _ _ ih => exact ih
  | startWait _ _ _ hw => exact hw hc hpend
  | endWait | reset => rfl
  | clearSelChange _ _ p ih | clearHold _ _ p ih => exact same (fun _ => id) ih
  | writePort p r v =>
    exact same (fun pt => writePort_congr (fun pt => pt.stby = true) (fun _ _ _ _ => rfl) pt r v ▸ id) hs
  | assign =>
    exact waitFits_mono (s := s) rfl
      (fun q => assign_port_congr (fun pt => pt.stby = true) (fun _ _ _ _ _ _ _ => rfl) s _ q ▸ id) hs
  | standby _ p => exact same (fun _ _ => rfl) hs
  | enable hcmd =>
    show Machine.waitFits _ s.wait = true
    rw [hidle _ hcmd]
    rfl
  | count p | dspHold p => exact same (fun _ => id) hs
  | boundary p =>
    exact waitFits_mono (s := s.modPort p fun pt => { pt with vcnt := 0 }) rfl (fun _ => id) (same (fun _ => id) hs)
  | _ => exact hs

end Change

/-- Settles O55: the pending bits, the control bits and the wait are kept by every change. -/
theorem commitArbiterStaysSound : Obligations.CommitArbiterStaysSound := by
  intro s t hs h
  refine step_keeps (I := CommitSound) (fun _ _ _ _ _ hs => hs) (fun hc hidle hch hs => ?_) h hs
  obtain ⟨-, hpend, hctl, hwait⟩ := hs
  exact ⟨hch.profile_eq ▸ hc, hch.pendingSound hpend, hch.portControlSound hc hctl, hch.waitFits hc hidle hpend hwait⟩

/-! ## The control words and the slots -/

/-- Every set of control words of the block, staged and active, is a `W`. -/
abbrev WordsAll (W : BlendWords → Prop) (s : State) : Prop :=
  W s.bw ∧ (∀ m < 8, W (s.slot m).words ∧ W (s.slot m).act) ∧ (∀ w < 8, W (s.win w).clu ∧ W (s.win w).cluAct)

/-- A packed word shows `blend_mode` and `factor_mode` at their bits, and nothing at the bits with no field (10 R55). -/
theorem packControl_fields (f : ControlWord) :
    (packControl f).extractLsb' 2 2 = f.blendMode ∧ (packControl f).extractLsb' 5 3 = f.factorMode ∧
      packControl f &&& 0xFF00FC00 = 0 := by
  refine ⟨?_, ?_, ?_⟩
  · unfold packControl
    rw [BitVec.extractLsb'_append_eq_of_le (by decide), BitVec.extractLsb'_append_eq_of_le (by decide),
      BitVec.extractLsb'_append_eq_of_add_le (by decide), BitVec.extractLsb'_eq_self]
  · unfold packControl
    rw [BitVec.extractLsb'_append_eq_of_le (by decide), BitVec.extractLsb'_append_eq_of_le (by decide),
      BitVec.extractLsb'_append_eq_of_le (by decide), BitVec.extractLsb'_append_eq_of_le (by decide),
      BitVec.extractLsb'_append_eq_of_add_le (by decide), BitVec.extractLsb'_eq_self]
  · apply BitVec.eq_of_getLsbD_eq
    intro i hi
    simp only [packControl, BitVec.getLsbD_and, BitVec.getLsbD_append]
    interval_cases i <;> simp

theorem packControl_legal {f : ControlWord} (hblend : f.blendMode ≠ 3) (hfactor : f.factorMode.toNat ≤ 5) :
    legalControl (packControl f) = true := by
  obtain ⟨hb, hf, hz⟩ := packControl_fields f
  unfold legalControl
  rw [hb, hf, hz]
  simpa [hfactor] using hblend

/-- No record gives `blend_mode` 3 (43 R242). -/
theorem blendMode_ne_three (pix glb : Bool) : blendMode pix glb ≠ 3 := by
  cases pix <;> cases glb <;> decide

/-- The derive function uses only the codes of the layout (43 R244). -/
theorem deriveWords_legal (a : AlphaConfig) (swap : Bool) : legalWords (deriveWords a swap) = true := by
  have hblend := blendMode_ne_three a.srcPixEn (a.srcGlb != 0xFF)
  have hsrc : legalControl (deriveWords a swap).srcColor = true :=
    packControl_legal hblend (by dsimp only; split <;> decide)
  have hdst : legalControl (deriveWords a swap).dstColor = true := packControl_legal nofun (Nat.le_of_ble_eq_true rfl)
  have hsrcAlpha : legalControl (deriveWords a swap).srcAlpha = true :=
    packControl_legal hblend (Nat.le_of_ble_eq_true rfl)
  have hdstAlpha : legalControl (deriveWords a swap).dstAlpha = true :=
    packControl_legal (by dsimp only; split <;> decide) (Nat.le_of_ble_eq_true rfl)
  simp [legalWords, hsrc, hdst, hsrcAlpha, hdstAlpha]

/-- A slot that nobody wrote holds zeros, and an owner is one of the `n` ports (43 R269). -/
def MixSlot.Owned (n : Nat) (sl : MixSlot) : Prop :=
  (sl.valid = false → sl.words = .zero ∧ sl.act = .zero) ∧ (sl.valid = true → sl.owner.toNat < n)

theorem MixSlot.Owned.written {n P : Nat} {old new : MixSlot} (h : old.Owned n) (hP : P < n) (hn : n ≤ 4)
    (hw : WrittenOrSame P old new) : new.Owned n := by
  rcases hw with rfl | ⟨a, rfl⟩
  · exact h
  · refine ⟨nofun, fun _ => ?_⟩
    rw [MixSlot.written_owner, BitVec.toNat_ofNat, Nat.mod_eq_of_lt (by omega)]
    exact hP

theorem MixSlot.Owned.latch {n : Nat} {sl : MixSlot} (h : sl.Owned n) (p : Nat) : (latchSlot p sl).Owned n := by
  refine ⟨fun hv => ?_, fun hv => ?_⟩
  · rw [latchSlot_valid] at hv
    rw [latchSlot_words, latchSlot_act, if_neg (by simp [hv])]
    exact h.1 hv
  · rw [latchSlot_valid] at hv
    rw [latchSlot_owner]
    exact h.2 hv

namespace Change

variable {c : Cause} {s t : State}

/-- Only derived words and zeros are ever put into a set of control words (10 R52, R54). -/
theorem wordsAll {W : BlendWords → Prop} (hzero : W .zero) (hderive : ∀ a swap, W (deriveWords a swap))
    (h : Change c s t) (hs : WordsAll W s) : WordsAll W t := by
  obtain ⟨hbw, hslots, hwins⟩ := hs
  have inner {w : Nat} {f : Window → Window} (hf : W (s.win w).clu ∧ W (s.win w).cluAct →
      W (f (s.win w)).clu ∧ W (f (s.win w)).cluAct) :=
    wins_modWin (I := fun win => W win.clu ∧ W win.cluAct) hwins hf
  induction h with
  | setReg _ _ _ ih | setLog _ _ ih | startWait _ _ _ _ ih | endWait _ _ ih | clearSelChange _ _ _ ih
  | clearHold _ _ _ ih => exact ih
  | writeWindow w r v =>
    refine ⟨hbw, hslots, inner fun hw => ?_⟩
    obtain ⟨-, hclu, hact⟩ := writeWindow_same s.profile w (s.win w) r v
    exact ⟨hclu ▸ hw.1, hact ▸ hw.2⟩
  | disable w => exact ⟨hbw, hslots, inner id⟩
  | derive => exact ⟨hderive _ _, hslots, hwins⟩
  | blend _ =>
    refine ⟨hbw, fun m hm => ?_, hwins⟩
    obtain ⟨hwords, hact⟩ := hslots m hm
    rcases blend_slot_cases s _ m with heq | ⟨a, heq⟩ <;> rw [heq]
    · exact ⟨hwords, hact⟩
    · exact ⟨hderive a false, hact⟩
  | clublend _ w => exact ⟨hbw, hslots, inner fun hw => ⟨hderive _ _, hw.2⟩⟩
  | boundary p =>
    refine ⟨hbw, fun m hm => ?_, fun w hw => ?_⟩
    · rw [latch_slot]
      obtain ⟨hwords, hact⟩ := hslots m hm
      split
      · rw [latchSlot_words, latchSlot_act]
        split
        · exact ⟨hwords, hwords⟩
        · exact ⟨hwords, hact⟩
      · exact ⟨hwords, hact⟩
    · rw [latch_win]
      obtain ⟨hclu, hact⟩ := hwins w hw
      split
      · unfold latchWindow
        split
        · refine ⟨hclu, ?_⟩
          dsimp only
          split
          · exact hclu
          · exact hact
        · exact ⟨hclu, hact⟩
      · exact ⟨hclu, hact⟩
  | reset =>
    refine ⟨hzero, fun m hm => ?_, fun w hw => ?_⟩
    · rw [show s.resetEvent.slot m = _ from resetOf_slot s.profile hm]; exact ⟨hzero, hzero⟩
    · rw [show s.resetEvent.win w = _ from resetOf_win s.profile hw]; exact ⟨hzero, hzero⟩
  | _ => exact ⟨hbw, hslots, hwins⟩

theorem slotsOwned (h : Change c s t) (hc : s.profile.WellFormed) (hs : SlotsOwned s) : SlotsOwned t := by
  have hs : ∀ m < s.profile.nmixer, (s.slot m).Owned s.profile.nport := hs
  suffices ∀ m < s.profile.nmixer, (t.slot m).Owned s.profile.nport by
    rw [← h.profile_eq] at this
    exact this
  induction h with
  | setReg _ _ _ ih | setLog _ _ ih | startWait _ _ _ _ ih | endWait _ _ ih | clearSelChange _ _ _ ih
  | clearHold _ _ _ ih => exact ih
  | blend _ hP => exact fun m hm => (hs m hm).written hP (Profile.nport_le_four hc) (blend_slot_cases s _ m)
  | boundary p =>
    intro m hm
    rw [latch_slot]
    split
    · exact (hs m hm).latch p
    · exact hs m hm
  | reset => exact resetOf_slotsOwned hc
  | _ => exact hs

end Change

/-- Settles O56: every set of control words is written by the derive function, by reset or from its staged copy, and the
derive function keeps to the layout. -/
theorem controlWordsStayDerived : Obligations.ControlWordsStayDerived := by
  constructor
  · intro s t hs h
    exact step_keeps (I := WordsAll derivedOrZero) (fun _ _ _ _ _ hs => hs)
      (fun _ _ hch hs => hch.wordsAll (.inl rfl) (fun a swap => .inr ⟨a, swap, rfl⟩) hs) h hs
  · intro s t hlegal howned h
    exact step_keeps (I := fun s => WordsAll (legalWords · = true) s ∧ SlotsOwned s) (fun _ _ _ _ _ hs => hs)
      (fun hc _ hch hs => ⟨hch.wordsAll (by decide) deriveWords_legal hs.1, hch.slotsOwned hc hs.2⟩) h ⟨hlegal, howned⟩

/-! ## The fault record, the flags and the scaling registers -/

/-- A recorded fault fills both sides of the record (60 R341). -/
theorem recordFault_sound (s : State) (f : HardFault) {info : Word} (hinfo : info ≠ 0) :
    FaultRecordSound (s.recordFault f info) := by
  have hbit : (s.fault ||| bit 6 f.bitIndex) ≠ 0 := by
    have hf : bit 6 f.bitIndex ≠ 0 := by cases f <;> decide
    exact fun h => hf (BitVec.or_eq_zero_iff.mp h).2
  have hrec : (if s.faultInfo = 0 then info else s.faultInfo) ≠ 0 := by
    split <;> assumption
  exact ⟨fun h => absurd h hbit, fun h => absurd h hrec⟩

/-- The record of a command's fault is not 0: its code is not (10 R28, R29). -/
theorem faultInfo_ne_zero (n : BitVec 24) (f : HardFault) : n ++ f.code ≠ 0 := by
  intro h
  have hcode : (n ++ f.code).extractLsb' 0 8 = f.code := by
    rw [BitVec.extractLsb'_append_eq_of_add_le (by decide), BitVec.extractLsb'_eq_self]
  rw [h] at hcode
  cases f <;> exact absurd hcode (by decide)

/-- PRESCL engages at most one pre-scale (41 R172). -/
theorem setPrescale_exclusive (f : Flags) (useAvg : Bool) (p : Prescale) : FlagsExclusive (f.setPrescale useAvg p) := by
  cases p <;> cases useAvg <;> simp [Flags.setPrescale]

/-- The staged scaling registers hold no bit that they do not implement (10 R46, R49). -/
def ScalerRegs.Masked (c : Profile) (scl : ScalerRegs) : Prop := ∀ r, readScaler scl r &&& ~~~(scalerMask c r) = 0

theorem readScaler_setScaler (scl : ScalerRegs) (name r : ScalerReg) (v : Word) :
    readScaler (setScaler scl name v) r = if r = name then v else readScaler scl r := by
  cases name <;> cases r <;> rfl

theorem mergeBits_and_not (mask old v : Word) : mergeBits mask old v &&& ~~~mask = old &&& ~~~mask := by
  apply BitVec.eq_of_getLsbD_eq
  intro i hi
  simp only [mergeBits, BitVec.getLsbD_and, BitVec.getLsbD_or, BitVec.getLsbD_not, hi, decide_true, Bool.true_and]
  cases mask.getLsbD i <;> simp

theorem ScalerRegs.Masked.write {c : Profile} {scl : ScalerRegs} (h : scl.Masked c) (name : ScalerReg) (v : Word) :
    (setScaler scl name (mergeBits (scalerMask c name) (readScaler scl name) v)).Masked c := by
  intro r
  rw [readScaler_setScaler]
  split
  · next hr => rw [hr, mergeBits_and_not]; exact h name
  · exact h r

theorem writeWindow_masked {c : Profile} {win : Window} (h : win.scl.Masked c) (w : Nat) (r : WindowReg) (v : Word) :
    (writeWindow c w win r v).scl.Masked c := by
  cases r with
  | scl name => exact h.write name v
  | sub =>
    unfold writeWindow
    dsimp only
    split <;> exact h
  | _ => exact h

theorem scalerBitsSound_iff (s : State) :
    ScalerBitsSound s ↔ ∀ w < s.profile.nwin, (s.win w).scl.Masked s.profile :=
  ⟨fun h w hw r => h w hw r (by cases r <;> simp), fun h w hw r _ => h w hw r⟩

namespace Change

variable {c : Cause} {s t : State}

theorem faultRecordSound (h : Change c s t) (hs : FaultRecordSound s) : FaultRecordSound t := by
  induction h with
  | setReg _ _ _ ih | setLog _ _ ih | startWait _ _ _ _ ih | endWait _ _ ih | clearSelChange _ _ _ ih
  | clearHold _ _ _ ih => exact ih
  | fault f => exact recordFault_sound s f (faultInfo_ne_zero _ f)
  | busFault => exact recordFault_sound s .badAddr (faultInfo_ne_zero _ .badAddr)
  | reset => exact ⟨fun _ => rfl, fun _ => rfl⟩
  | _ => exact hs

theorem flagsExclusive (h : Change c s t) (hs : FlagsExclusive s.flags) : FlagsExclusive t.flags := by
  induction h with
  | setReg _ _ _ ih | setLog _ _ ih | startWait _ _ _ _ ih | endWait _ _ ih | clearSelChange _ _ _ ih
  | clearHold _ _ _ ih => exact ih
  | prescale _ avg p => exact setPrescale_exclusive s.flags avg p
  | reset => exact Nat.zero_le 1
  | _ => exact hs

theorem scalerBitsSound (h : Change c s t) (hc : s.profile.WellFormed) (hs : ScalerBitsSound s) : ScalerBitsSound t := by
  rw [scalerBitsSound_iff] at hs ⊢
  rw [h.profile_eq]
  induction h with
  | setReg _ _ _ ih | setLog _ _ ih | startWait _ _ _ _ ih | endWait _ _ ih | clearSelChange _ _ _ ih
  | clearHold _ _ _ ih => exact ih
  | writeWindow w r v =>
    exact wins_modWin (I := fun win => win.scl.Masked s.profile) hs fun hw => writeWindow_masked hw w r v
  | disable w | clublend _ w => exact wins_modWin (I := fun win => win.scl.Masked s.profile) hs id
  | boundary p =>
    intro w hw
    rw [latch_win_congr Window.scl (fun _ _ _ => rfl)]
    exact hs w hw
  | reset => exact (scalerBitsSound_iff _).mp (resetOf_scalerBitsSound hc)
  | _ => exact hs

end Change

/-- Settles O57: a fault writes both halves of the record, PRESCL one flag, and a write only implemented bits. -/
theorem recordAndFlagsStaySound : Obligations.RecordAndFlagsStaySound := by
  intro s t hfault hflags hscl h
  exact step_keeps (I := fun s => FaultRecordSound s ∧ FlagsExclusive s.flags ∧ ScalerBitsSound s)
    (fun _ _ _ _ _ hs => hs)
    (fun hc _ hch ⟨hfault, hflags, hscl⟩ =>
      ⟨hch.faultRecordSound hfault, hch.flagsExclusive hflags, hch.scalerBitsSound hc hscl⟩) h ⟨hfault, hflags, hscl⟩

end Sys2Proof.Machine
end

section
/-! SUPPORT. ASSIGN keeps the assignment invariant (42_layer_assignment.md R211 to R217), and so does every step. -/

namespace Sys2Proof.Machine

/-! ## Counting the windows of disjoint masks -/

/-- The bits of a mask as a set of window indices. -/
def maskBits {n : Nat} (v : BitVec n) : Finset Nat := (Finset.range n).filter fun i => v.getLsbD i = true

theorem mem_maskBits {n : Nat} {v : BitVec n} {i : Nat} : i ∈ maskBits v ↔ v.getLsbD i = true := by
  unfold maskBits
  rw [Finset.mem_filter, Finset.mem_range, and_iff_right_iff_imp]
  exact BitVec.lt_of_getLsbD

theorem popcount_eq_card {n : Nat} (v : BitVec n) : popcount v = (maskBits v).card := by
  unfold popcount maskBits
  rw [← List.toFinset_card_of_nodup (List.nodup_range.filter _), List.toFinset_filter, List.toFinset_range]

/-- A list of windows without repetition that are all in a mask is no longer than the mask's count. -/
theorem length_le_popcount {n : Nat} {v : BitVec n} {l : List Nat} (hl : l.Nodup) (h : ∀ w ∈ l, v.getLsbD w = true) :
    l.length ≤ popcount v := by
  rw [popcount_eq_card, ← List.toFinset_card_of_nodup hl]
  exact Finset.card_le_card fun w hw => mem_maskBits.mpr (h w (List.mem_toFinset.mp hw))

/-- The masks of the first `n` ports: no bit at or above `bound`, and no bit in two of them (10 R39, R41). -/
def MasksDisjoint (ports : Vector Port 4) (n bound : Nat) : Prop :=
  (∀ p < n, ∀ w < 8, bound ≤ w → (getAt ports p).winMask.getLsbD w = false) ∧
  (∀ p < n, ∀ q < n, p ≠ q → (getAt ports p).winMask &&& (getAt ports q).winMask = 0)

/-- The range of a port ends where the next one starts. -/
theorem startOf_succ (ports : Vector Port 4) (k : Nat) : startOf ports (k + 1) = startOf ports k + windowCount ports k := by
  unfold startOf
  rw [List.range_succ, List.map_append, List.sum_append]
  simp

theorem startOf_eq_sum (ports : Vector Port 4) (k : Nat) :
    startOf ports k = ∑ q ∈ Finset.range k, (maskBits (getAt ports q).winMask).card := by
  induction k with
  | zero => rfl
  | succ k ih => rw [startOf_succ, Finset.sum_range_succ, ih, windowCount, popcount_eq_card]

/-- Disjoint masks hold at most as many windows together as there are (42 R212). -/
theorem startOf_le {ports : Vector Port 4} {n bound : Nat} (h : MasksDisjoint ports n bound) {k : Nat} (hk : k ≤ n) :
    startOf ports k ≤ bound := by
  have hdisj : ∀ p ∈ Finset.range k, ∀ q ∈ Finset.range k, p ≠ q →
      Disjoint (maskBits (getAt ports p).winMask) (maskBits (getAt ports q).winMask) := by
    intro p hp q hq hne
    rw [Finset.mem_range] at hp hq
    rw [Finset.disjoint_left]
    intro w hwp hwq
    rw [mem_maskBits] at hwp hwq
    have hz := congrArg (·.getLsbD w) (h.2 p (by omega) q (by omega) hne)
    simp [hwp, hwq] at hz
  rw [startOf_eq_sum, ← Finset.card_biUnion hdisj, ← Finset.card_range bound]
  refine Finset.card_le_card fun w hw => ?_
  obtain ⟨p, hp, hwp⟩ := Finset.mem_biUnion.mp hw
  rw [mem_maskBits] at hwp
  rw [Finset.mem_range] at hp ⊢
  by_contra hge
  have := h.1 p (by omega) w (BitVec.lt_of_getLsbD hwp) (by omega)
  simp [hwp] at this

/-- The ranges of disjoint masks end within the layers. -/
theorem startOf_add_windowCount_le {ports : Vector Port 4} {n bound : Nat} (h : MasksDisjoint ports n bound) {k : Nat}
    (hk : k < n) : startOf ports k + windowCount ports k ≤ bound :=
  startOf_succ ports k ▸ startOf_le h hk

theorem windowCount_congr {ports ports' : Vector Port 4} {q : Nat}
    (h : (getAt ports q).winMask = (getAt ports' q).winMask) : windowCount ports q = windowCount ports' q :=
  congrArg popcount h

theorem startOf_congr {ports ports' : Vector Port 4} {k : Nat}
    (h : ∀ q < k, (getAt ports q).winMask = (getAt ports' q).winMask) : startOf ports k = startOf ports' k := by
  rw [startOf_eq_sum, startOf_eq_sum]
  exact Finset.sum_congr rfl fun q hq => by rw [h q (Finset.mem_range.mp hq)]

/-! ## What ASSIGN leaves in a port -/

/-- The ports after step 1 of ASSIGN (42 R211). -/
def State.migrated (s : State) (P : Nat) : Vector Port 4 := (migrate s.profile s.wins P s.ports).1

/-- The ports that lost a window in step 1 (42 R211). -/
def State.lostTo (s : State) (P : Nat) : BitVec 4 := (migrate s.profile s.wins P s.ports).2

/-- The ports after step 2 of ASSIGN (42 R212). -/
def State.recounted (s : State) (P : Nat) : Vector Port 4 := recount s.profile P (s.lostTo P) (s.migrated P)

/-- The active windows of `P` in the order of step 3 of ASSIGN (42 R213). -/
def State.activeWindows (s : State) (P : Nat) : List Nat := sortActive s.profile s.wins (s.recounted P) P

section

variable {s : State} {P : Nat}

/-- Step 3 and later steps leave the fields of step 2 in a port (42 R210). -/
theorem assign_port_recounted {β : Type} (g : Port → β)
    (hg : ∀ pt n l, g { pt with nrLayers := n, lselChg := l } = g pt) (s : State) (P q : Nat) :
    g ((s.assign P).port q) = g (getAt (s.recounted P) q) := by
  rw [show (s.assign P).port q = getAt (modAt (s.recounted P) P _) q from rfl, getAt_modAt]
  split
  · next h => rw [h.1]; exact hg _ _ _
  · rfl

/-- A port after step 2 of ASSIGN: migration left its start and `RANGE_CHG` alone (42 R212). -/
theorem getAt_recounted (hc : s.profile.WellFormed) {q : Nat} (hq : q < s.profile.nport) :
    getAt (s.recounted P) q =
      { getAt (s.migrated P) q with
        wcnt := BitVec.ofNat 4 (windowCount (s.migrated P) q)
        start := BitVec.ofNat 4 (startOf (s.migrated P) q)
        rangeChg := if q = P then false
          else (s.port q).rangeChg || BitVec.ofNat 4 (startOf (s.migrated P) q) != (s.port q).start ||
            (s.lostTo P).getLsbD q } := by
  have hstart : (getAt (s.migrated P) q).start = (s.port q).start :=
    migrate_congr Port.start (fun _ _ => rfl) s.profile s.wins P s.ports q
  have hchg : (getAt (s.migrated P) q).rangeChg = (s.port q).rangeChg :=
    migrate_congr Port.rangeChg (fun _ _ => rfl) s.profile s.wins P s.ports q
  rw [State.recounted, getAt_recount, if_pos ⟨hq, lt_of_lt_of_le hq (Profile.nport_le_four hc)⟩, hstart, hchg]

theorem assign_winMask (hc : s.profile.WellFormed) {q : Nat} (hq : q < s.profile.nport) :
    ((s.assign P).port q).winMask = (getAt (s.migrated P) q).winMask := by
  rw [assign_port_recounted Port.winMask (fun _ _ _ => rfl), getAt_recounted hc hq]

theorem assign_wcnt (hc : s.profile.WellFormed) {q : Nat} (hq : q < s.profile.nport) :
    ((s.assign P).port q).wcnt = BitVec.ofNat 4 (windowCount (s.migrated P) q) := by
  rw [assign_port_recounted Port.wcnt (fun _ _ _ => rfl), getAt_recounted hc hq]

theorem assign_start (hc : s.profile.WellFormed) {q : Nat} (hq : q < s.profile.nport) :
    ((s.assign P).port q).start = BitVec.ofNat 4 (startOf (s.migrated P) q) := by
  rw [assign_port_recounted Port.start (fun _ _ _ => rfl), getAt_recounted hc hq]

theorem assign_rangeChg (hc : s.profile.WellFormed) {q : Nat} (hq : q < s.profile.nport) :
    ((s.assign P).port q).rangeChg = if q = P then false
      else (s.port q).rangeChg || BitVec.ofNat 4 (startOf (s.migrated P) q) != (s.port q).start ||
        (s.lostTo P).getLsbD q := by
  rw [assign_port_recounted Port.rangeChg (fun _ _ _ => rfl), getAt_recounted hc hq]

theorem assign_nrLayers_self (hP : P < 4) :
    ((s.assign P).port P).nrLayers = BitVec.ofNat 4 (s.activeWindows P).length := by
  rw [show (s.assign P).port P = getAt (modAt (s.recounted P) P _) P from rfl, getAt_modAt_self _ _ hP]
  rfl

theorem assign_nrLayers_of_ne (hc : s.profile.WellFormed) {q : Nat} (hq : q < s.profile.nport) (hne : q ≠ P) :
    ((s.assign P).port q).nrLayers = (s.port q).nrLayers := by
  rw [show (s.assign P).port q = getAt (modAt (s.recounted P) P _) q from rfl, getAt_modAt_ne _ _ hne,
    getAt_recounted hc hq]
  exact migrate_congr Port.nrLayers (fun _ _ => rfl) s.profile s.wins P s.ports q

/-- The staged port mux after ASSIGN `P` is computed from the counts and starts that ASSIGN leaves (42 R215). -/
theorem assign_portMux (hc : s.profile.WellFormed) {q : Nat} (hq : q < s.profile.nport) :
    getAt (s.assign P).portMux q =
      if ((s.assign P).port q).wcnt = 0 then 8#4 else ((s.assign P).port q).start + ((s.assign P).port q).wcnt - 1 := by
  have hmux := getAt_portMuxOf s.profile (s.recounted P) s.portMux q
  rw [if_pos ⟨hq, lt_of_lt_of_le hq (Profile.nport_le_four hc)⟩] at hmux
  rw [assign_port_recounted Port.wcnt (fun _ _ _ => rfl), assign_port_recounted Port.start (fun _ _ _ => rfl)]
  exact hmux

/-- The masks after migration are disjoint again: a claimed window is in `P`'s mask only (42 R211, 10 R41). -/
theorem migrated_disjoint (hc : s.profile.WellFormed) (hP : P < s.profile.nport) (hs : MasksSound s) :
    MasksDisjoint (s.migrated P) s.profile.nport s.profile.nwin := by
  obtain ⟨-, hbits, -⟩ := migrate_spec s.profile s.wins P s.ports (Profile.nport_le_four hc) hP (Profile.nwin_le_eight hc)
  obtain ⟨hrange, hdisj⟩ := hs
  constructor
  · intro p hp w hw hge
    rw [State.migrated, hbits p w hw, if_neg (by omega)]
    exact hrange p hp w hw hge
  · intro p hp q hq hne
    apply BitVec.eq_of_getLsbD_eq
    intro w hw
    rw [BitVec.getLsbD_and, State.migrated, hbits p w hw, hbits q w hw]
    by_cases hcl : w < s.profile.nwin ∧ claims s.wins s.ports P w = true
    · have : ¬ (p = P ∧ q = P) := fun h => hne (h.1.trans h.2.symm)
      simp [hcl, hp, hq]
      tauto
    · rw [if_neg (fun h => hcl ⟨h.1, h.2.2⟩), if_neg (fun h => hcl ⟨h.1, h.2.2⟩), ← BitVec.getLsbD_and]
      exact congrArg (·.getLsbD w) (hdisj p hp q hq hne)

/-- A port that lost no window has the mask it had (42 R211). -/
theorem migrated_mask_of_not_lost (hc : s.profile.WellFormed) (hP : P < s.profile.nport) {q : Nat} (hq : q < s.profile.nport)
    (hqP : q ≠ P) (hlost : (s.lostTo P).getLsbD q = false) :
    (getAt (s.migrated P) q).winMask = (s.port q).winMask := by
  obtain ⟨-, hbits, hlostBits⟩ :=
    migrate_spec s.profile s.wins P s.ports (Profile.nport_le_four hc) hP (Profile.nwin_le_eight hc)
  apply BitVec.eq_of_getLsbD_eq
  intro w hw
  rw [State.migrated, hbits q w hw]
  split
  · next hcl =>
    by_contra hbit
    rw [decide_eq_false hqP] at hbit
    have : (s.lostTo P).getLsbD q = true :=
      (hlostBits q).mpr ⟨hq, hqP, w, hcl.1, hcl.2.2, Bool.ne_false_iff.mp (Ne.symm hbit)⟩
    simp [hlost] at this
  · rfl

/-- The active windows of `P` exist, are in its mask and stand once each (42 R213). -/
theorem activeWindows_length_le (hc : s.profile.WellFormed) (hP : P < s.profile.nport) :
    (s.activeWindows P).length ≤ windowCount (s.migrated P) P := by
  have hP4 : P < 4 := lt_of_lt_of_le hP (Profile.nport_le_four hc)
  refine length_le_popcount (nodup_sortActive _ _ _ _) fun w hw => ?_
  obtain ⟨-, hact⟩ := (mem_sortActive _ _ _ _ _).mp hw
  unfold activeOn at hact
  rw [Bool.and_eq_true, State.recounted, getAt_recount, if_pos ⟨hP, hP4⟩] at hact
  exact hact.2

/-- The port mux code of a range that ends within the layers is its last slot, without a wrap (42 R215). -/
theorem portMux_toNat {start wcnt : BitVec 4} (h : start.toNat + wcnt.toNat ≤ 8) :
    (if wcnt = 0 then 8#4 else start + wcnt - 1).toNat =
      if wcnt.toNat = 0 then 8 else start.toNat + wcnt.toNat - 1 := by
  by_cases hw : wcnt = 0
  · simp [hw]
  · have hw' : wcnt.toNat ≠ 0 := fun h0 => hw (BitVec.eq_of_toNat_eq h0)
    rw [if_neg hw, if_neg hw', BitVec.toNat_sub, BitVec.toNat_add, show (1 : BitVec 4).toNat = 1 from rfl]
    omega

/-! ## The invariant -/

/-- After migration the range of every port ends within the windows. -/
theorem migrated_range_le (hc : s.profile.WellFormed) (hP : P < s.profile.nport) (hmasks : MasksSound s) {q : Nat}
    (hq : q < s.profile.nport) : startOf (s.migrated P) q + windowCount (s.migrated P) q ≤ s.profile.nwin :=
  startOf_add_windowCount_le (migrated_disjoint hc hP hmasks) hq

/-- The field `WCNT` holds the whole count (42 R212). -/
theorem assign_wcnt_toNat (hc : s.profile.WellFormed) (hP : P < s.profile.nport) (hmasks : MasksSound s) {q : Nat}
    (hq : q < s.profile.nport) : ((s.assign P).port q).wcnt.toNat = windowCount (s.migrated P) q := by
  have hrange := migrated_range_le hc hP hmasks hq
  have h8 := Profile.nwin_le_eight hc
  rw [assign_wcnt hc hq, BitVec.toNat_ofNat]
  omega

/-- The field `START` holds the whole start (42 R212). -/
theorem assign_start_toNat (hc : s.profile.WellFormed) (hP : P < s.profile.nport) (hmasks : MasksSound s) {q : Nat}
    (hq : q < s.profile.nport) : ((s.assign P).port q).start.toNat = startOf (s.migrated P) q := by
  have hrange := migrated_range_le hc hP hmasks hq
  have h8 := Profile.nwin_le_eight hc
  rw [assign_start hc hq, BitVec.toNat_ofNat]
  omega

theorem assign_masksSound (hc : s.profile.WellFormed) (hP : P < s.profile.nport) (hmasks : MasksSound s) :
    MasksSound (s.assign P) := by
  obtain ⟨hrange, hdisj⟩ := migrated_disjoint hc hP hmasks
  refine ⟨fun p hp w hw hge => ?_, fun p hp q hq hne => ?_⟩
  · rw [assign_winMask hc hp]
    exact hrange p hp w hw hge
  · rw [assign_winMask hc hp, assign_winMask hc hq]
    exact hdisj p hp q hq hne

theorem assign_countsSound (hc : s.profile.WellFormed) (hP : P < s.profile.nport) (hmasks : MasksSound s) :
    CountsSound (s.assign P) := by
  intro p hp
  rw [assign_wcnt_toNat hc hP hmasks hp, assign_start_toNat hc hP hmasks hp]
  exact ⟨windowCount_congr (assign_winMask hc hp).symm,
    startOf_congr fun q hq => (assign_winMask hc (lt_trans hq hp)).symm⟩

theorem assign_muxSound (hc : s.profile.WellFormed) (hP : P < s.profile.nport) (hmasks : MasksSound s) :
    MuxSound (s.assign P) := by
  intro p hp
  have hrange := migrated_range_le hc hP hmasks hp
  have h8 := Profile.nwin_le_eight hc
  rw [← assign_wcnt_toNat hc hP hmasks hp, ← assign_start_toNat hc hP hmasks hp] at hrange
  rw [assign_portMux hc hp]
  exact portMux_toNat (by omega)

/-- `P`'s layers fit its mask; another port without `RANGE_CHG` kept its mask, its count and its layers (43 R271). -/
theorem assign_rangesSound (hs : AssignmentSound s) (hP : P < s.profile.nport) : RangesSound (s.assign P) := by
  obtain ⟨hc, hmasks, hcounts, -, hranges, -⟩ := hs
  intro p hp hchg
  rw [assign_wcnt_toNat hc hP hmasks hp]
  by_cases hpP : p = P
  · subst hpP
    have hlen := activeWindows_length_le hc hP
    rw [assign_nrLayers_self (lt_of_lt_of_le hp (Profile.nport_le_four hc)), BitVec.toNat_ofNat]
    exact (Nat.mod_le _ _).trans hlen
  · rw [assign_rangeChg hc hp, if_neg hpP, Bool.or_eq_false_iff, Bool.or_eq_false_iff] at hchg
    obtain ⟨⟨hold, -⟩, hlost⟩ := hchg
    obtain ⟨hwcnt, -⟩ := hcounts p hp
    rw [assign_nrLayers_of_ne hc hp hpP, windowCount_congr (migrated_mask_of_not_lost hc hP hp hpP hlost), ← hwcnt]
    exact hranges p hp hold

/-- The swaps of step 4 stay within `P`'s range and keep the selector a permutation (42 R214, 10 R42). -/
theorem assign_selectorSound (hc : s.profile.WellFormed) (hP : P < s.profile.nport) (hmasks : MasksSound s)
    (hsel : SelectorSound s.profile s.layerSel) : SelectorSound s.profile (s.assign P).layerSel := by
  have hlen := activeWindows_length_le (s := s) hc hP
  have hrange := migrated_range_le hc hP hmasks hP
  have hfirst : (getAt (s.recounted P) P).start.toNat = startOf (s.migrated P) P := by
    rw [← assign_start_toNat hc hP hmasks hP, assign_port_recounted Port.start (fun _ _ _ => rfl)]
  have hfit : (getAt (s.recounted P) P).start.toNat + (s.activeWindows P).length ≤ s.profile.nlayer := by
    rw [Profile.nlayer_eq_nwin hc]
    omega
  obtain ⟨hsound, -⟩ := placeWindows_spec hc _ (s.activeWindows P) s.layerSel hsel
    (fun w hw => ((mem_sortActive _ _ _ _ _).mp hw).1) (nodup_sortActive _ _ _ _) hfit
  exact hsound

theorem assign_assignmentSound (hs : AssignmentSound s) (hP : P < s.profile.nport) : AssignmentSound (s.assign P) := by
  have hranges := assign_rangesSound hs hP
  obtain ⟨hc, hmasks, -, -, -, hsel, hact⟩ := hs
  have hmasks' := assign_masksSound hc hP hmasks
  have hcounts := assign_countsSound hc hP hmasks
  have hmux := assign_muxSound hc hP hmasks
  have hsel' := assign_selectorSound hc hP hmasks hsel
  exact ⟨hc, hmasks', hcounts, hmux, hranges, hsel', hact⟩

/-- The invariant reads the ports' masks, layers and ranges, the port mux and the selectors only. -/
theorem AssignmentSound.of_layout {t : State} (hs : AssignmentSound s) (hprofile : t.profile = s.profile)
    (hlayout : ∀ q, (t.port q).layout = (s.port q).layout) (hmux : t.portMux = s.portMux)
    (hsel : t.layerSel = s.layerSel) (hact : SelectorSound s.profile t.layerSelAct) : AssignmentSound t := by
  obtain ⟨hc, hmasks, hcounts, hpmux, hranges, hold, -⟩ := hs
  simp only [Port.layout, Prod.mk.injEq] at hlayout
  have hcount (q : Nat) : windowCount t.ports q = windowCount s.ports q := windowCount_congr (hlayout q).1
  have hstart (k : Nat) : startOf t.ports k = startOf s.ports k := startOf_congr fun q _ => (hlayout q).1
  simp only [AssignmentSound, MasksSound, CountsSound, MuxSound, RangesSound, hprofile, hmux, hsel, hcount, hstart, hlayout]
  exact ⟨hc, hmasks, hcounts, hpmux, hranges, hold, hact⟩

theorem AssignmentSound.modPort (hs : AssignmentSound s) {p : Nat} {f : Port → Port}
    (hf : ∀ pt, (f pt).layout = pt.layout) : AssignmentSound (s.modPort p f) := by
  obtain ⟨-, -, -, -, -, -, hact⟩ := id hs
  exact hs.of_layout rfl (State.port_modPort_congr Port.layout hf s p) rfl rfl hact

end

theorem Change.assignmentSound {c : Cause} {s t : State} (h : Change c s t) (hs : AssignmentSound s) : AssignmentSound t := by
  induction h with
  | setReg _ _ _ ih | setLog _ _ ih | startWait _ _ _ _ ih | endWait _ _ ih => exact ih
  | clearSelChange _ _ p ih | clearHold _ _ p ih => exact ih.modPort fun _ => rfl
  | writePort p r v => exact hs.modPort fun pt => writePort_congr _ (fun _ _ _ _ => rfl) pt r v
  | assign _ hP => exact assign_assignmentSound hs hP
  | standby _ p | enable _ p | count p | dspHold p => exact hs.modPort fun _ => rfl
  | boundary p =>
    have hcount : AssignmentSound (s.modPort p fun pt => { pt with vcnt := 0 }) := hs.modPort fun _ => rfl
    obtain ⟨-, -, -, -, -, hsel, -⟩ := hs
    exact hcount.of_layout rfl (fun _ => rfl) rfl rfl hsel
  | reset => exact resetOf_assignmentSound hs.1
  | _ => exact hs

/-- Settles O54: ASSIGN computes masks, counts, ranges, port mux and selector anew from sound ones, a boundary copies the
staged selector, and no other change but reset writes any of them. -/
theorem assignmentStaysSound : Obligations.AssignmentStaysSound := fun _ _ hs h =>
  step_keeps (I := AssignmentSound) (fun _ _ _ _ _ hs => hs) (fun _ _ hch hs => hch.assignmentSound hs) h hs

end Sys2Proof.Machine
end

section
/-! SUPPORT. What the registers show (10_state.md R22 to R54), after reset (10_state.md R64) and on a bus read (20_memory.md
R84). -/

namespace Sys2Proof.Machine

/-! ## The register file -/

/-- A misaligned offset is unmapped (20 R81). -/
theorem regAt_of_misaligned (c : Profile) {addr : Offset} (h : addr.toNat % 4 ≠ 0) : regAt c addr = none := by
  unfold regAt
  simp only [ne_eq, h, not_false_eq_true, if_true]

/-- `CMD` is the only register that cannot be read (20 R81). -/
theorem accessOf_ne_wo {name : RegName} (h : name ≠ .cmd) : accessOf name ≠ .wo := by
  unfold accessOf
  split
  · exact absurd rfl h
  all_goals nofun

/-- A read-only register is read and never written (20 R84, R85). -/
theorem readOnly_access {s : State} {addr : Offset} {name : RegName} (h : regAt s.profile addr = some name)
    (hro : accessOf name = .ro) : memRead s addr = some (readReg s name) ∧ ∀ v, memWrite s addr v = none := by
  refine ⟨memRead_of_regAt h (by simp [hro]), fun v => ?_⟩
  unfold memWrite
  simp [h, hro]

/-- No register shows the host's lists or the value last read. -/
theorem readReg_taken (s : State) (rest : List HostOp) (name : RegName) : readReg (s.taken rest) name = readReg s name := by
  cases name <;> rfl

/-! ## `STATUS` and the banks of codes -/

/-- `BUSY`, `WAITKIND` and `WAITPORT` (10 R27). -/
theorem waitBits_fields (w : WaitState) :
    (waitBits w).getLsbD 0 = decide (w ≠ .idle) ∧
    (waitBits w).extractLsb' 1 2 =
      (match w with
      | .idle => 0 | .waiting .done _ _ => 1 | .waiting .pmux _ _ => 2 | .waiting .dspHold _ _ => 3) ∧
    (waitBits w).extractLsb' 3 2 =
      (match w with
      | .idle => 0 | .waiting .pmux _ _ => 0 | .waiting .done q _ => BitVec.ofNat 2 q
      | .waiting .dspHold q _ => BitVec.ofNat 2 q) := by
  cases w with
  | idle => decide
  | waiting kind q rest =>
    have hport (m : BitVec 2) (k : BitVec 2) :
        (m ++ k ++ 1#1).getLsbD 0 = true ∧ (m ++ k ++ 1#1).extractLsb' 1 2 = k ∧ (m ++ k ++ 1#1).extractLsb' 3 2 = m := by
      revert m k; decide
    obtain ⟨hbusy, hkind, hwp⟩ := hport (if kind = .pmux then 0#2 else BitVec.ofNat 2 q) (waitKindCode kind)
    refine ⟨hbusy, hkind.trans ?_, hwp.trans ?_⟩ <;> cases kind <;> rfl

/-- `STATUS` is the wait, then one bit for `FAULT` and one for `LOG` (10 R27). -/
theorem statusWord_fields (s : State) :
    (∀ i < 5, (statusWord s).getLsbD i = (waitBits s.wait).getLsbD i) ∧
    (∀ i n, i + n ≤ 5 → (statusWord s).extractLsb' i n = (waitBits s.wait).extractLsb' i n) ∧
    (statusWord s).getLsbD 5 = decide (s.fault ≠ 0) ∧ (statusWord s).getLsbD 6 = decide (s.log ≠ 0) ∧
    (statusWord s).extractLsb' 7 25 = 0 := by
  refine ⟨fun i hi => ?_, fun i n hn => ?_, ?_, ?_, ?_⟩
  · unfold statusWord
    rw [BitVec.getLsbD_append, if_pos hi]
  · unfold statusWord
    rw [BitVec.extractLsb'_append_eq_of_add_le hn]
  · simp only [statusWord, BitVec.getLsbD_append]
    rw [Bool.eq_iff_iff]
    simp
  · simp only [statusWord, BitVec.getLsbD_append]
    rw [Bool.eq_iff_iff]
    simp
  · unfold statusWord
    rw [BitVec.extractLsb'_append_eq_of_le (by decide), BitVec.extractLsb'_append_eq_of_le (by decide),
      BitVec.extractLsb'_append_eq_of_le (by decide)]
    rfl

/-- The bits of a bank of codes that are all 0. -/
theorem packNibbles_eq_zero {count : Nat} {f : Nat → BitVec 4} (h : ∀ i < 8, f i = 0) : packNibbles count f = 0 := by
  apply BitVec.eq_of_getLsbD_eq
  intro j hj
  rw [getLsbD_packNibbles, h (j / 4) (by omega)]
  simp

/-! ## After reset -/

/-- Every register of 10 R64 that no parameter shapes reads 0. -/
theorem resetOf_readGlobal (c : Profile) :
    ∀ name ∈ [RegName.seq, .flags, .status, .fault, .faultInfo, .log, .cfgDone], readReg (State.resetOf c) name = 0 := by
  intro name hname
  have hsame : readReg (State.resetOf c) name = readReg State.reset name := by fin_cases hname <;> rfl
  rw [hsame]
  clear hsame
  revert name
  decide

theorem resetOf_mixOwner (c : Profile) : readReg (State.resetOf c) .mixOwner = 0 :=
  packNibbles_eq_zero fun _ hm => congrArg ownerNibble (resetOf_slot c hm)

theorem resetOf_acfg (c : Profile) : readReg (State.resetOf c) .acfg = 0x00FFFF00 := by
  show acfgWord ⟨false, false, false, false, 0xFF, 0xFF⟩ = _
  decide

theorem resetOf_x (c : Profile) (i : RegNum) : readReg (State.resetOf c) (.x i) = 0 := getAt_replicate _ i.isLt

/-- A port after reset: in standby, everything else 0 (10 R64). -/
theorem resetOf_readPort (c : Profile) {p : Nat} (hp : p < 4) :
    readReg (State.resetOf c) (.port p .ctrl) = 1 ∧
      ∀ r ∈ [PortReg.timing, .pclk, .vcnt, .winMask, .layers], readReg (State.resetOf c) (.port p r) = 0 := by
  have h (r : PortReg) : readReg (State.resetOf c) (.port p r) = readPort Port.reset r :=
    congrArg (readPort · r) (resetOf_port c hp)
  simp only [h]
  decide

/-- A window after reset: disabled, opaque, its class in `WIN_CTRL`, nothing staged or active (10 R64). -/
theorem resetOf_readWindow (c : Profile) {w : Nat} (hw : w < 8) :
    readReg (State.resetOf c) (.window w .ctrl) = (classCode (classOf c w)).setWidth 32 <<< 16 ∧
    readReg (State.resetOf c) (.window w .alpha) = 0x000000FF ∧
    readReg (State.resetOf c) (.window w .sub) = (if classOf c w = .cluster then 0x00FF0000 else 0) ∧
    ∀ r, readReg (State.resetOf c) (.window w (.scl r)) = 0 ∧ readReg (State.resetOf c) (.window w (.sclAct r)) = 0 := by
  have h (r : WindowReg) : readReg (State.resetOf c) (.window w r) = readWindow c w Window.reset r :=
    congrArg (readWindow c w · r) (resetOf_win c hw)
  simp only [h]
  refine ⟨?_, rfl, rfl, fun r => ⟨?_, ?_⟩⟩
  · show winCtrlWord (classOf c w) Window.reset = _
    cases classOf c w <;> rfl
  · cases r <;> exact BitVec.zero_and
  · cases r <;> rfl

theorem resetOf_readMix (c : Profile) {m : Nat} (hm : m < 8) (active : Bool) (r : BlendReg) :
    readReg (State.resetOf c) (.mix m active r) = 0 := by
  have h : getAt (State.resetOf c).slots m = MixSlot.reset := resetOf_slot c hm
  simp only [readReg, h]
  cases active <;> cases r <;> rfl

theorem resetOf_readClu (c : Profile) {w : Nat} (hw : w < 8) (active : Bool) (r : BlendReg) :
    readReg (State.resetOf c) (.clu w active r) = 0 := by
  have h : getAt (State.resetOf c).wins w = Window.reset := resetOf_win c hw
  simp only [readReg, h]
  cases active <;> cases r <;> rfl

theorem resetPortMux_standard : resetPortMux Profile.standard = #v[8, 8, 8, 0] := by
  simp [resetPortMux, Profile.standard]

/-- The port mux word of the default profile, staged and active (10 R33, R64). -/
theorem portMux_standard : packNibbles 3 (getAt (resetPortMux Profile.standard)) = 0x00000888 := by
  rw [resetPortMux_standard]
  decide

/-- Settles O51, row by row of 10 R64. -/
theorem resetValuesAreTheTable : Obligations.ResetValuesAreTheTable := by
  refine ⟨fun c hc => ?_, rfl, by decide, by decide, by decide, portMux_standard, portMux_standard⟩
  have h4 := Profile.nport_le_four hc
  have h8 := Profile.nwin_le_eight hc
  have hmixer : c.nmixer ≤ 8 := Profile.nmixer_eq_nwin hc ▸ h8
  have hzero : ∀ name ∈ [RegName.seq, .flags, .status, .fault, .faultInfo, .log, .cfgDone, .mixOwner],
      readReg (State.resetOf c) name = 0 := by
    intro name (hname : name ∈ [.seq, .flags, .status, .fault, .faultInfo, .log, .cfgDone] ++ [.mixOwner])
    rcases List.mem_append.mp hname with h | h
    · exact resetOf_readGlobal c name h
    · rw [List.mem_singleton.mp h]
      exact resetOf_mixOwner c
  exact ⟨resetOf_x c, hzero, rfl, rfl,
    fun l hl => ⟨getAt_resetLayerSel hc hl, getAt_resetLayerSel hc hl⟩,
    fun p hp => ⟨getAt_resetPortMux hc hp, getAt_resetPortMux hc hp⟩,
    fun p hp => resetOf_readPort c (by omega), fun w hw => resetOf_readWindow c (by omega), resetOf_acfg c,
    fun r => by cases r <;> rfl, fun m hm => resetOf_readMix c (by omega), fun w hw => resetOf_readClu c (by omega),
    rfl, rfl⟩

/-! ## Bus reads -/

/-- A step whose turn is the host's, with a bus read next (20 R84, R96). -/
theorem step_of_busRead {s : State} {addr : Offset} {rest : List HostOp} (h : HostNext s (.busRead addr) rest) :
    step s = .next (busRead addr (s.taken rest)) := by
  obtain ⟨hc, ha, hops⟩ := h
  unfold step
  rw [if_pos hc, ha]
  simp only [turn, hostTurn, hops]
  rfl

theorem busRead_of_some {s : State} {addr : Offset} {v : Word} (h : memRead s addr = some v) :
    busRead addr s = { s with readData := some v } := by
  unfold busRead; rw [h]

theorem busRead_of_none {s : State} {addr : Offset} (h : memRead s addr = none) :
    busRead addr s = faultedWith { s with readData := some 0 } 0b001000 4 := by
  unfold busRead; rw [h]; rfl

/-- A read that names no readable register (20 R84). -/
theorem memRead_eq_none {s : State} {addr : Offset}
    (h : addr.toNat % 4 ≠ 0 ∨ regAt s.profile addr = none ∨ regAt s.profile addr = some .cmd) :
    memRead s addr = none := by
  have h : regAt s.profile addr = none ∨ regAt s.profile addr = some .cmd :=
    h.elim (fun hm => .inl (regAt_of_misaligned _ hm)) id
  unfold memRead
  rcases h with h | h <;> rw [h]
  rfl

/-- The offsets of the global registers that the host only reads (20 R81). -/
theorem regAt_readOnly (c : Profile) :
    ∀ entry ∈ [(0x000#12, RegName.id), (0x004#12, .hwcfg), (0x00C#12, .status), (0x010#12, .flags), (0x014#12, .fault),
        (0x018#12, .faultInfo), (0x020#12, .seq), (0x024#12, .cfgDone), (0x028#12, .layerSel), (0x02C#12, .layerSelAct),
        (0x030#12, .portMux), (0x034#12, .portMuxAct), (0x038#12, .mixOwner)],
      regAt c entry.1 = some entry.2 ∧ accessOf entry.2 = .ro := by
  intro entry hentry
  fin_cases hentry <;> exact ⟨rfl, rfl⟩

/-- What a bus read with the host's turn does (20 R84). -/
theorem step_busRead_cases {s : State} {addr : Offset} {rest : List HostOp} (hn : HostNext s (.busRead addr) rest) :
    (∀ name, regAt s.profile addr = some name → name ≠ .cmd →
      step s = .next { s.taken rest with readData := some (readReg s name) }) ∧
    (addr.toNat % 4 ≠ 0 ∨ regAt s.profile addr = none ∨ regAt s.profile addr = some .cmd →
      step s = .next (faultedWith { s.taken rest with readData := some 0 } 0b001000 4)) := by
  rw [step_of_busRead hn]
  refine ⟨fun name hname hcmd => ?_, fun hbad => ?_⟩
  · rw [busRead_of_some (memRead_of_regAt (s := s.taken rest) hname (accessOf_ne_wo hcmd)), readReg_taken]
  · rw [busRead_of_none (memRead_eq_none (s := s.taken rest) hbad)]

/-- Settles O7: every register shows its fields, and a bus read answers the register or 0 with `BADADDR`. -/
theorem busReadReturnsRegister : Obligations.BusReadReturnsRegister := by
  refine ⟨fun s => ?_, fun s addr rest hn => step_busRead_cases hn⟩
  obtain ⟨hbit, hfield, hfault, hlog, hzero⟩ := statusWord_fields s
  obtain ⟨hbusy, hkind, hport⟩ := waitBits_fields s.wait
  refine ⟨fun entry hentry => ?_, memRead_of_regAt rfl nofun, rfl, rfl,
    ⟨(hbit 0 (by decide)).trans hbusy, (hfield 1 2 (by decide)).trans hkind, (hfield 3 2 (by decide)).trans hport, hfault,
      hlog, hzero, resetOf_readGlobal _ .status (by decide)⟩,
    rfl, rfl, rfl, rfl, rfl, rfl, fun l hl => ⟨?_, ?_, ?_, ?_, ?_⟩, ⟨rfl, fun _ => ⟨rfl, rfl, rfl, rfl⟩⟩, fun _ => rfl,
    fun _ => ⟨rfl, rfl, rfl, rfl⟩⟩
  · obtain ⟨hat, hro⟩ := regAt_readOnly s.profile entry hentry
    exact readOnly_access hat hro
  all_goals exact packNibbles_field _ _ hl

end Sys2Proof.Machine
end

section
/-! SUPPORT. The address map of 20_memory.md R81 read from both sides: from an offset to its register and back. -/

namespace Sys2Proof.Machine

/-! ## The groups of the map, by word index -/

theorem globalReg_eq_some {i : Nat} {name : RegName} (h : globalReg i = some name) (c : Profile) :
    inMap c name = true ∧ offsetOf name = 4 * i := by
  unfold globalReg at h
  split at h <;> cases h <;> exact ⟨rfl, rfl⟩

theorem blendReg_eq_some_iff {i : Nat} {r : BlendReg} : blendReg i = some r ↔ i = blendIndex r := by
  constructor
  · intro h
    unfold blendReg at h
    split at h <;> cases h <;> rfl
  · rintro rfl
    cases r <;> rfl

theorem scalerReg_eq_some_iff {i : Nat} {r : ScalerReg} : scalerReg i = some r ↔ i = scalerIndex r := by
  constructor
  · intro h
    unfold scalerReg at h
    split at h <;> cases h <;> rfl
  · rintro rfl
    cases r <;> rfl

theorem portReg_eq_some_iff {i : Nat} {r : PortReg} : portReg i = some r ↔ 4 * i = portOffset r := by
  constructor
  · intro h
    unfold portReg at h
    split at h <;> cases h <;> rfl
  · intro h
    obtain rfl : i = portOffset r / 4 := by omega
    cases r <;> rfl

theorem windowReg_eq_some_iff {i : Nat} {r : WindowReg} : windowReg i = some r ↔ 4 * i = windowOffset r := by
  constructor
  · intro h
    unfold windowReg at h
    split at h
    · split at h <;> cases h <;> rfl
    all_goals
      split at h
      all_goals
        obtain ⟨r, hr, rfl⟩ := Option.map_eq_some_iff.mp h
        rw [scalerReg_eq_some_iff] at hr
        simp only [windowOffset]
        omega
  · intro h
    obtain rfl : i = windowOffset r / 4 := by omega
    cases r with
    | scl r | sclAct r => cases r <;> rfl
    | _ => rfl

theorem stageReg_eq_some_iff {mk : Bool → BlendReg → RegName} {i : Nat} {name : RegName} :
    stageReg mk i = some name ↔ ∃ active r, mk active r = name ∧ 4 * i = stageOffset active r := by
  constructor
  · intro h
    unfold stageReg at h
    split at h
    all_goals
      obtain ⟨r, hr, rfl⟩ := Option.map_eq_some_iff.mp h
      rw [blendReg_eq_some_iff] at hr
    · exact ⟨false, r, rfl, by simp [stageOffset, hr]⟩
    · exact ⟨true, r, rfl, by simp [stageOffset]; omega⟩
  · rintro ⟨active, r, rfl, h⟩
    obtain rfl : i = stageOffset active r / 4 := by omega
    cases active <;> cases r <;> rfl

theorem blendIndex_lt (r : BlendReg) : blendIndex r < 4 := by cases r <;> decide

theorem scalerIndex_lt (r : ScalerReg) : scalerIndex r < 5 := by cases r <;> decide

theorem portOffset_eq (r : PortReg) : ∃ i < 8, portOffset r = 4 * i :=
  ⟨portOffset r / 4, by cases r <;> decide, by cases r <;> rfl⟩

theorem stageOffset_eq (active : Bool) (r : BlendReg) : ∃ i < 8, stageOffset active r = 4 * i := by
  have hr := blendIndex_lt r
  cases active
  · exact ⟨blendIndex r, by omega, by simp [stageOffset]⟩
  · exact ⟨4 + blendIndex r, by omega, by simp [stageOffset]; omega⟩

theorem windowOffset_eq (r : WindowReg) : ∃ i < 16, windowOffset r = 4 * i := by
  cases r with
  | ctrl => exact ⟨0, by decide, rfl⟩
  | alpha => exact ⟨1, by decide, rfl⟩
  | sub => exact ⟨2, by decide, rfl⟩
  | scl r => exact ⟨4 + scalerIndex r, by have := scalerIndex_lt r; omega, by simp only [windowOffset]; omega⟩
  | sclAct r => exact ⟨9 + scalerIndex r, by have := scalerIndex_lt r; omega, by simp only [windowOffset]; omega⟩

/-! ## From the offset to the register -/

section
variable {c : Profile} {addr : Offset}

theorem regAt_x {i : RegNum} (h : addr.toNat = 0x040 + 4 * i.toNat) : regAt c addr = some (.x i) := by
  have hi := i.isLt
  unfold regAt
  simp (disch := omega) only [if_neg, if_pos]
  rw [h, show (0x040 + 4 * i.toNat - 0x040) / 4 = i.toNat by omega, BitVec.ofNat_toNat, BitVec.setWidth_eq]

theorem regAt_bw {i : Nat} (hi : i < 4) (h : addr.toNat = 0x084 + 4 * i) : regAt c addr = (blendReg i).map .bw := by
  unfold regAt
  simp (disch := omega) only [if_neg, if_pos]
  rw [show (addr.toNat - 0x084) / 4 = i by omega]

theorem regAt_port {p i : Nat} (hp : p < c.nport) (hp8 : p < 8) (hi : i < 8) (h : addr.toNat = 0x100 + 0x20 * p + 4 * i) :
    regAt c addr = (portReg i).map (.port p) := by
  unfold regAt
  have hidx : (addr.toNat - 0x100) / 0x20 = p := by omega
  simp (disch := omega) only [if_neg, if_pos, hidx]
  rw [show (addr.toNat - 0x100) % 0x20 / 4 = i by omega]

theorem regAt_window {w i : Nat} (hw : w < c.nwin) (hw8 : w < 8) (hi : i < 16)
    (h : addr.toNat = 0x200 + 0x40 * w + 4 * i) : regAt c addr = (windowReg i).map (.window w) := by
  unfold regAt
  have hidx : (addr.toNat - 0x200) / 0x40 = w := by omega
  simp (disch := omega) only [if_neg, if_pos, hidx]
  rw [show (addr.toNat - 0x200) % 0x40 / 4 = i by omega]

theorem regAt_mix {m i : Nat} (hm : m < c.nmixer) (hm8 : m < 16) (hi : i < 8)
    (h : addr.toNat = 0x400 + 0x20 * m + 4 * i) : regAt c addr = stageReg (.mix m) i := by
  unfold regAt
  have hidx : (addr.toNat - 0x400) / 0x20 = m := by omega
  simp (disch := omega) only [if_neg, if_pos, hidx]
  rw [show (addr.toNat - 0x400) % 0x20 / 4 = i by omega]

theorem regAt_clu {w i : Nat} (hw : w < c.nwin ∧ classOf c w = .cluster) (hw8 : w < 16) (hi : i < 8)
    (h : addr.toNat = 0x600 + 0x20 * w + 4 * i) : regAt c addr = stageReg (.clu w) i := by
  unfold regAt
  have hidx : (addr.toNat - 0x600) / 0x20 = w := by omega
  simp (disch := omega) only [if_neg, if_pos, hidx, hw, and_self, if_true]
  rw [show (addr.toNat - 0x600) % 0x20 / 4 = i by omega]

/-- A register that exists is the one at the table's offset (20 R81). -/
theorem regAt_of_offsetOf (hc : c.WellFormed) {name : RegName} (hin : inMap c name = true)
    (h : addr.toNat = offsetOf name) : regAt c addr = some name := by
  have hport := Profile.nport_le_four hc
  have hwin := Profile.nwin_le_eight hc
  have hmixer := Profile.nmixer_eq_nwin hc
  have haddr : addr = BitVec.ofNat 12 (offsetOf name) := by rw [← h, BitVec.ofNat_toNat, BitVec.setWidth_eq]
  cases name with
  | x i => exact regAt_x h
  | bw r =>
    rw [regAt_bw (blendIndex_lt r) h, blendReg_eq_some_iff.mpr rfl]
    rfl
  | port p r =>
    obtain ⟨i, hi, hoff⟩ := portOffset_eq r
    have hp : p < c.nport := of_decide_eq_true hin
    rw [regAt_port hp (by omega) hi (h.trans (by rw [offsetOf, hoff])), portReg_eq_some_iff.mpr hoff.symm]
    rfl
  | window w r =>
    obtain ⟨i, hi, hoff⟩ := windowOffset_eq r
    have hw : w < c.nwin := of_decide_eq_true hin
    rw [regAt_window hw (by omega) hi (h.trans (by rw [offsetOf, hoff])), windowReg_eq_some_iff.mpr hoff.symm]
    rfl
  | mix m active r =>
    obtain ⟨i, hi, hoff⟩ := stageOffset_eq active r
    have hm : m < c.nmixer := of_decide_eq_true hin
    rw [regAt_mix hm (by omega) hi (h.trans (by rw [offsetOf, hoff]))]
    exact stageReg_eq_some_iff.mpr ⟨active, r, rfl, hoff.symm⟩
  | clu w active r =>
    obtain ⟨i, hi, hoff⟩ := stageOffset_eq active r
    have hw : w < c.nwin ∧ classOf c w = .cluster := of_decide_eq_true hin
    rw [regAt_clu hw (by omega) hi (h.trans (by rw [offsetOf, hoff]))]
    exact stageReg_eq_some_iff.mpr ⟨active, r, rfl, hoff.symm⟩
  | _ =>
    rw [haddr]
    rfl

/-- The register at an offset exists and the offset is the table's (20 R81). -/
theorem offsetOf_of_regAt {name : RegName} (h : regAt c addr = some name) :
    inMap c name = true ∧ addr.toNat = offsetOf name := by
  unfold regAt at h
  dsimp only at h
  split_ifs at h
  · obtain ⟨hin, hoff⟩ := globalReg_eq_some h c
    exact ⟨hin, by omega⟩
  · obtain rfl := Option.some.inj h
    exact ⟨rfl, by simp only [offsetOf, BitVec.toNat_ofNat]; omega⟩
  · obtain rfl := Option.some.inj h
    exact ⟨rfl, ‹_›⟩
  · obtain ⟨r, hr, rfl⟩ := Option.map_eq_some_iff.mp h
    rw [blendReg_eq_some_iff] at hr
    exact ⟨rfl, by simp only [offsetOf]; omega⟩
  · next hp =>
    obtain ⟨r, hr, rfl⟩ := Option.map_eq_some_iff.mp h
    rw [portReg_eq_some_iff] at hr
    exact ⟨decide_eq_true hp, by simp only [offsetOf]; omega⟩
  · next hw =>
    obtain ⟨r, hr, rfl⟩ := Option.map_eq_some_iff.mp h
    rw [windowReg_eq_some_iff] at hr
    exact ⟨decide_eq_true hw, by simp only [offsetOf]; omega⟩
  · next hm =>
    obtain ⟨active, r, rfl, hr⟩ := stageReg_eq_some_iff.mp h
    exact ⟨decide_eq_true hm, by simp only [offsetOf]; omega⟩
  · next hw =>
    obtain ⟨active, r, rfl, hr⟩ := stageReg_eq_some_iff.mp h
    exact ⟨decide_eq_true hw, by simp only [offsetOf]; omega⟩

/-- No register stands at two offsets. -/
theorem regAt_injective {addr' : Offset} {name : RegName} (h : regAt c addr = some name) (h' : regAt c addr' = some name) :
    addr = addr' :=
  BitVec.eq_of_toNat_eq ((offsetOf_of_regAt h).2.trans (offsetOf_of_regAt h').2.symm)

end

/-- Settles O9: the map and the table give each other, and the access rights decide what a read and a write answer. -/
theorem addressMapIsTheTable : Obligations.AddressMapIsTheTable := by
  intro s addr name hc
  refine ⟨⟨offsetOf_of_regAt, fun ⟨hin, hoff⟩ => regAt_of_offsetOf hc hin hoff⟩, fun h => ⟨?_, fun v => ?_⟩,
    fun h => ⟨memRead_eq_none (.inr (.inl h)), fun v => ?_⟩⟩
  · simp [Option.isSome_iff_exists, memRead_eq_some_iff, h]
  · simp [Option.isSome_iff_exists, memWrite_eq_some_iff, h]
  · simp [Option.eq_none_iff_forall_ne_some, memWrite_eq_some_iff, h]

end Sys2Proof.Machine
end

section
/-! SUPPORT. What a write stores (20_memory.md R85): the writable bits of the register it names, and nothing else that a
register shows. -/

namespace Sys2Proof.Machine

/-! ## The writable bits of a word -/

/-- `mergeBits` at any width, so that it can be followed field by field. -/
def takeBits {n : Nat} (mask old v : BitVec n) : BitVec n := (v &&& mask) ||| (old &&& ~~~mask)

theorem mergeBits_eq_takeBits (mask old v : Word) : mergeBits mask old v = takeBits mask old v := rfl

theorem getLsbD_takeBits {n : Nat} (mask old v : BitVec n) (i : Nat) :
    (takeBits mask old v).getLsbD i = if mask.getLsbD i then v.getLsbD i else old.getLsbD i := by
  by_cases hi : i < n
  · simp only [takeBits, BitVec.getLsbD_or, BitVec.getLsbD_and, BitVec.getLsbD_not, hi, decide_true, Bool.true_and]
    cases mask.getLsbD i <;> simp
  · simp [BitVec.getLsbD_of_ge _ i (Nat.not_lt.mp hi)]

/-- A word made of two fields takes the bits field by field. -/
theorem takeBits_append {m n : Nat} (maskHi oldHi : BitVec m) (maskLo oldLo : BitVec n) (v : BitVec (m + n)) :
    takeBits (maskHi ++ maskLo) (oldHi ++ oldLo) v =
      takeBits maskHi oldHi (v.extractLsb' n m) ++ takeBits maskLo oldLo (v.extractLsb' 0 n) := by
  apply BitVec.eq_of_getLsbD_eq
  intro i hi
  simp only [getLsbD_takeBits, BitVec.getLsbD_append, BitVec.getLsbD_extractLsb']
  split
  · next h => simp [h]
  · next h => simp [show i - n < m by omega, show n + (i - n) = i by omega]

theorem takeBits_zero {n : Nat} (old v : BitVec n) : takeBits 0#n old v = old := by
  simp [takeBits]

theorem takeBits_allOnes {n : Nat} (old v : BitVec n) : takeBits (BitVec.allOnes n) old v = v := by
  simp [takeBits]

theorem extractLsb'_extractLsb'_of_add_le {n a b k l : Nat} (v : BitVec n) (h : b + l ≤ k) :
    (v.extractLsb' a k).extractLsb' b l = v.extractLsb' (a + b) l := by
  apply BitVec.eq_of_getLsbD_eq
  intro i hi
  simp [hi, show b + i < k by omega, Nat.add_assoc]

theorem extractLsb'_one {n : Nat} (v : BitVec n) (i : Nat) : v.extractLsb' i 1 = flagBit (v.getLsbD i) := by
  apply BitVec.eq_of_getLsbD_eq
  intro j hj
  obtain rfl : j = 0 := by omega
  simp

/-- `ACFG` stores the bits of its fields (10 R50). -/
theorem acfgWord_acfgOfWord (a : AlphaConfig) (v : Word) :
    acfgWord (acfgOfWord v) = takeBits 0x00FFFF0F (acfgWord a) v := by
  rw [show (0x00FFFF0F : Word) = 0#8 ++ BitVec.allOnes 8 ++ BitVec.allOnes 8 ++ 0#4 ++ BitVec.allOnes 1 ++
    BitVec.allOnes 1 ++ BitVec.allOnes 1 ++ BitVec.allOnes 1 by decide]
  unfold acfgWord
  simp (disch := decide) only [takeBits_append, takeBits_zero, takeBits_allOnes, extractLsb'_extractLsb'_of_add_le,
    extractLsb'_one]
  rfl

/-- `WIN_CTRL` stores all its fields but `CLASS`, `WIN_ALPHA` and `WIN_SUB` all of theirs (10 R43 to R45). -/
theorem windowWords_written (c : Profile) (w : Nat) (win : Window) (v : Word) (cls : WinClass) :
    winCtrlWord cls (writeWindow c w win .ctrl v) = takeBits 0x0000FFF1 (winCtrlWord cls win) v ∧
    winAlphaWord (writeWindow c w win .alpha v) = takeBits 0x000003FF (winAlphaWord win) v ∧
    winSubWord (subOfWord v) = takeBits 0x00FF0303 (winSubWord win.sub) v := by
  rw [show (0x0000FFF1 : Word) = 0#14 ++ 0#2 ++ BitVec.allOnes 8 ++ BitVec.allOnes 4 ++ 0#3 ++ BitVec.allOnes 1 by decide,
    show (0x000003FF : Word) = 0#22 ++ BitVec.allOnes 1 ++ BitVec.allOnes 1 ++ BitVec.allOnes 8 by decide,
    show (0x00FF0303 : Word) = 0#8 ++ BitVec.allOnes 8 ++ 0#6 ++ BitVec.allOnes 1 ++ BitVec.allOnes 1 ++ 0#6 ++
      BitVec.allOnes 1 ++ BitVec.allOnes 1 by decide]
  unfold winCtrlWord winAlphaWord winSubWord
  simp (disch := decide) only [takeBits_append, takeBits_zero, takeBits_allOnes, extractLsb'_extractLsb'_of_add_le,
    extractLsb'_one]
  exact ⟨rfl, rfl, rfl⟩

/-- An implemented bit of a scaling register reads as the staged bit does (10 R46, R49). -/
theorem takeBits_and_self {n : Nat} (mask old v : BitVec n) :
    takeBits mask old v &&& mask = takeBits mask (old &&& mask) v := by
  apply BitVec.eq_of_getLsbD_eq
  intro i _
  rw [BitVec.getLsbD_and, getLsbD_takeBits, getLsbD_takeBits, BitVec.getLsbD_and]
  cases mask.getLsbD i <;> simp

/-! ## What a written register shows -/

theorem readPort_writePort_same {p : Nat} {r : PortReg} (hrw : accessOf (.port p r) = .rw) (c : Profile) (pt : Port)
    (v : Word) : readPort (writePort pt r v) r = takeBits (writableBits c (.port p r)) (readPort pt r) v := by
  cases r with
  | timing => exact BitVec.extractLsb'_append_extractLsb'.trans (takeBits_allOnes (n := 32) _ v).symm
  | pclk => exact (takeBits_allOnes (n := 32) _ v).symm
  | _ => cases hrw

theorem readWindow_writeWindow_same {w : Nat} {r : WindowReg} (hrw : accessOf (.window w r) = .rw) (c : Profile)
    (win : Window) (v : Word) :
    readWindow c w (writeWindow c w win r v) r = takeBits (writableBits c (.window w r)) (readWindow c w win r) v := by
  obtain ⟨hctrl, halpha, hsub⟩ := windowWords_written c w win v (classOf c w)
  cases r with
  | ctrl => exact hctrl
  | alpha => exact halpha
  | sub =>
    simp only [readWindow, writeWindow, writableBits]
    split
    · exact hsub
    · exact (takeBits_zero _ v).symm
  | scl r =>
    simp only [readWindow, writeWindow, writableBits, readScaler_setScaler, if_true, mergeBits_eq_takeBits]
    exact takeBits_and_self _ _ v
  | sclAct r => cases hrw

/-- A writable register that exists takes its writable bits and keeps the others (20 R85). -/
theorem readReg_writeReg_same {s : State} {name : RegName} (hc : s.profile.WellFormed)
    (hin : inMap s.profile name = true) (hrw : accessOf name = .rw) (v : Word) :
    readReg (writeReg s name v) name = takeBits (writableBits s.profile name) (readReg s name) v := by
  have hport := Profile.nport_le_four hc
  have hwin := Profile.nwin_le_eight hc
  cases name with
  | x i => exact (s.reg_setReg_self i v).trans (takeBits_allOnes (n := 32) _ v).symm
  | acfg => exact acfgWord_acfgOfWord s.acfg v
  | port p r =>
    have hp : p < s.profile.nport := of_decide_eq_true hin
    exact (congrArg (readPort · r) (s.port_modPort_self _ (by omega))).trans (readPort_writePort_same hrw _ _ v)
  | window w r =>
    have hw : w < s.profile.nwin := of_decide_eq_true hin
    exact (congrArg (readWindow s.profile w · r) (s.win_modWin_self _ (by omega))).trans
      (readWindow_writeWindow_same hrw _ _ v)
  | _ => cases hrw

/-- A write to `LOG` clears the bits written as 1 (10 R30). -/
theorem readReg_writeReg_log (s : State) (v : Word) : readReg (writeReg s .log v) .log = readReg s .log &&& ~~~v := by
  show 0#29 ++ (s.log &&& ~~~(v.extractLsb' 0 3)) = (0#29 ++ s.log) &&& ~~~v
  apply BitVec.eq_of_getLsbD_eq
  intro i hi
  simp only [BitVec.getLsbD_append, BitVec.getLsbD_and, BitVec.getLsbD_not, BitVec.getLsbD_extractLsb']
  by_cases h : i < 3 <;> simp [h, hi]

/-! ## What the other registers show -/

theorem readPort_writePort_ne {r r' : PortReg} (h : r' ≠ r) (pt : Port) (v : Word) :
    readPort (writePort pt r v) r' = readPort pt r' := by
  cases r with
  | timing =>
    cases r' with
    | timing => exact absurd rfl h
    | _ => rfl
  | pclk =>
    cases r' with
    | pclk => exact absurd rfl h
    | _ => rfl
  | _ => rfl

theorem readWindow_writeWindow_ne {r r' : WindowReg} (h : r' ≠ r) (c : Profile) (w : Nat) (win : Window) (v : Word) :
    readWindow c w (writeWindow c w win r v) r' = readWindow c w win r' := by
  cases r with
  | ctrl =>
    cases r' with
    | ctrl => exact absurd rfl h
    | _ => rfl
  | alpha =>
    cases r' with
    | alpha => exact absurd rfl h
    | _ => rfl
  | sub =>
    unfold writeWindow
    dsimp only
    split
    · cases r' with
      | sub => exact absurd rfl h
      | _ => rfl
    · rfl
  | scl name =>
    cases r' with
    | scl name' =>
      have hname : name' ≠ name := fun e => h (congrArg WindowReg.scl e)
      simp only [readWindow, writeWindow, readScaler_setScaler, if_neg hname]
    | _ => rfl
  | sclAct name => rfl

/-- A write changes what no other register shows, but for the view `STATUS` of `LOG` (20 R85). -/
theorem readReg_writeReg_ne {s : State} {name other : RegName} (hne : other ≠ name)
    (hview : name = .log → other ≠ .status) (v : Word) : readReg (writeReg s name v) other = readReg s other := by
  cases name with
  | x i =>
    cases other with
    | x j => exact s.reg_setReg_ne v fun hij => hne (congrArg RegName.x hij)
    | _ => rfl
  | acfg =>
    cases other with
    | acfg => exact absurd rfl hne
    | _ => rfl
  | log =>
    cases other with
    | log => exact absurd rfl hne
    | status => exact absurd rfl (hview rfl)
    | _ => rfl
  | port p r =>
    cases other with
    | port q r' =>
      by_cases hq : q = p
      · subst hq
        have hr : r' ≠ r := fun hr => hne (congrArg (RegName.port q) hr)
        exact State.port_modPort_congr (readPort · r') (fun pt => readPort_writePort_ne hr pt v) s q q
      · exact congrArg (readPort · r') (s.port_modPort_ne _ hq)
    | _ => rfl
  | window w r =>
    cases other with
    | window u r' =>
      by_cases hu : u = w
      · subst hu
        have hr : r' ≠ r := fun hr => hne (congrArg (RegName.window u) hr)
        exact State.win_modWin_congr (readWindow s.profile u · r')
          (fun win => readWindow_writeWindow_ne hr s.profile u win v) s u u
      · exact congrArg (readWindow s.profile u · r') (s.win_modWin_ne _ hu)
    | clu u active r' =>
      exact State.win_modWin_congr (fun win => readBlend (if active then win.cluAct else win.clu) r')
        (fun win => by obtain ⟨-, hclu, hact⟩ := writeWindow_same s.profile w win r v; rw [hclu, hact]) s w u
    | _ => rfl
  | _ => rfl

theorem writeReg_sameHidden (s : State) (name : RegName) (v : Word) : SameHidden s (writeReg s name v) := by
  rcases writeReg_cases s name v with h | ⟨i, h⟩ | h | h | ⟨p, r, h⟩ | ⟨w, r, h⟩ <;> rw [h] <;>
    exact ⟨rfl, rfl, rfl, rfl, rfl⟩

/-! ## Writes at an offset -/

theorem memWrite_of_regAt {s : State} {addr : Offset} {name : RegName} (h : regAt s.profile addr = some name)
    (hw : accessOf name = .rw ∨ accessOf name = .w1c) (v : Word) : memWrite s addr v = some (writeReg s name v) :=
  (memWrite_eq_some_iff s addr v _).mpr ⟨name, h, hw, rfl⟩

/-- A write that names no writable register is refused (20 R85, R88). -/
theorem memWrite_eq_none {s : State} {addr : Offset}
    (h : addr.toNat % 4 ≠ 0 ∨ regAt s.profile addr = none ∨ addr = 0x008#12 ∨
      ∃ name, regAt s.profile addr = some name ∧ accessOf name = .ro) (v : Word) : memWrite s addr v = none := by
  have unmapped (h : regAt s.profile addr = none) : memWrite s addr v = none := by
    unfold memWrite
    rw [h]
  rcases h with hmis | hnone | rfl | ⟨name, hname, hro⟩
  · exact unmapped (regAt_of_misaligned _ hmis)
  · exact unmapped hnone
  · rfl
  · exact (readOnly_access hname hro).2 v

/-- Another offset reads as before a write, but for `STATUS` after a write to `LOG`. -/
theorem memRead_writeReg_ne {s : State} {addr other : Offset} {name : RegName} (h : regAt s.profile addr = some name)
    (hne : other ≠ addr) (hview : name = .log → other ≠ 0x00C#12) (v : Word) :
    memRead (writeReg s name v) other = memRead s other := by
  have hprofile : (writeReg s name v).profile = s.profile := (writeReg_sameHidden s name v).1
  cases hother : regAt s.profile other with
  | none =>
    rw [memRead_eq_none (.inr (.inl hother)), memRead_eq_none (.inr (.inl (hprofile ▸ hother)))]
  | some shown =>
    have hshown : shown ≠ name := fun e => hne (regAt_injective hother (e ▸ h))
    have hstatus (hl : name = .log) : shown ≠ .status := fun e => hview hl (regAt_injective (e ▸ hother) rfl)
    unfold memRead
    simp only [hprofile, hother, readReg_writeReg_ne hshown hstatus]

/-! ## What the writable registers show -/

/-- `WIN_CTRL` with the class's code written out (10 R43). -/
theorem winCtrlWord_eq (cls : WinClass) (win : Window) :
    winCtrlWord cls win = 0#14 ++ (match cls with | .cluster => 0#2 | .esmart => 1#2 | .smart => 2#2) ++
      win.zpos ++ win.vpMask ++ 0#3 ++ flagBit win.en := by
  cases cls <;> rfl

/-- A chroma factor, which a shared scaler does not implement (10 R49). -/
theorem and_chromaMask (shared : Bool) (v : Word) :
    v &&& (if shared then 0 else 0xFFFFFFFF) = if shared then 0 else v := by
  cases shared
  · exact BitVec.and_allOnes
  · exact BitVec.and_zero

/-- Settles O10: a write takes the writable bits of its register, shows in no other but `STATUS`, and is refused where no
register is writable. -/
theorem writeTakesWritableBits : Obligations.WriteTakesWritableBits := by
  refine ⟨fun s => ⟨fun _ => rfl, rfl, fun _ => ⟨rfl, rfl⟩, fun w => ⟨winCtrlWord_eq _ _, rfl, rfl, rfl,
      BitVec.and_allOnes, BitVec.and_allOnes, and_chromaMask _ _, and_chromaMask _ _⟩⟩,
    fun s addr v hc => ⟨fun name hname hrw => ?_, fun hlog => ?_, fun hbad => memWrite_eq_none hbad v⟩⟩
  · obtain ⟨hin, -⟩ := offsetOf_of_regAt hname
    refine ⟨_, memWrite_of_regAt hname (.inl hrw) v, writeReg_sameHidden s name v, ?_, fun other hne =>
      memRead_writeReg_ne hname hne (by rintro rfl; cases hrw) v⟩
    have hname' : regAt (writeReg s name v).profile addr = some name := by rwa [(writeReg_sameHidden s name v).1]
    rw [memRead_of_regAt hname' (by simp [hrw]), readReg_writeReg_same hc hin hrw]
    rfl
  · refine ⟨_, memWrite_of_regAt hlog (.inr rfl) v, writeReg_sameHidden s .log v, ?_, fun other hne hst =>
      memRead_writeReg_ne hlog hne (fun _ => hst) v⟩
    rw [memRead_of_regAt (s := writeReg s .log v) hlog nofun, readReg_writeReg_log]

end Sys2Proof.Machine
end

section
/-! SUPPORT. What the host's turn does with a write and with a read while a command waits (20_memory.md R85, R88, R96). -/

namespace Sys2Proof.Machine

/-! ## The host's turn -/

theorem step_of_host {s : State} (hc : s.profile.WellFormed) (ha : nextAgent s = .host) : step s = hostTurn s.turned := by
  unfold step
  rw [if_pos hc, ha]
  rfl

/-- A step whose turn is the host's, with a write next and no command waiting. -/
theorem step_of_busWrite {s : State} {addr : Offset} {v : Word} {rest : List HostOp}
    (h : HostNext s (.busWrite addr v) rest) (hidle : s.wait = .idle) : step s = busWrite addr v (s.taken rest) := by
  obtain ⟨hc, ha, hops⟩ := h
  have hbusy : s.turned.busy = false := (State.busy_eq_false_iff s.turned).mpr hidle
  rw [step_of_host hc ha]
  simp only [hostTurn, State.turned_hostOps, hops, hbusy]
  rfl

/-- A write that is held while a command waits takes the turn and nothing else (20 R96). -/
theorem step_of_heldWrite {s : State} {addr : Offset} {v : Word} {rest : List HostOp}
    (h : HostNext s (.busWrite addr v) rest) (hwait : s.wait ≠ .idle) : step s = .next s.turned := by
  obtain ⟨hc, ha, hops⟩ := h
  have hbusy : s.turned.busy = true := (State.busy_eq_true_iff s.turned).mpr hwait
  rw [step_of_host hc ha]
  simp only [hostTurn, State.turned_hostOps, hops, hbusy, if_true]

theorem memRead_taken (s : State) (rest : List HostOp) (addr : Offset) : memRead (s.taken rest) addr = memRead s addr := by
  unfold memRead
  simp only [State.taken_profile, readReg_taken]

/-- A bus read returns the register or 0, and takes no access and ends no wait of its own (20 R84). -/
theorem busRead_fields (addr : Offset) (s : State) :
    (busRead addr s).hostOps = s.hostOps ∧ (busRead addr s).wait = s.wait ∧
      (busRead addr s).readData = some ((memRead s addr).getD 0) := by
  cases h : memRead s addr with
  | none => rw [busRead_of_none h]; exact ⟨rfl, rfl, rfl⟩
  | some v => rw [busRead_of_some h]; exact ⟨rfl, rfl, rfl⟩

/-- Settles O6: a held write passes the turn, a read is taken as ever. -/
theorem heldHostAccess : Obligations.HeldHostAccess := by
  intro s op rest hn hwait
  refine ⟨?_, ?_⟩
  · rintro addr v rfl
    exact step_of_heldWrite hn hwait
  · rintro addr rfl
    obtain ⟨hops, hw, hread⟩ := busRead_fields addr (s.taken rest)
    exact ⟨_, step_of_busRead hn, hops, hw, hread.trans (by rw [memRead_taken])⟩

theorem ne_cmdOffset {c : Profile} {addr : Offset} (h : regAt c addr ≠ some .cmd) : addr ≠ cmdOffset := by
  rintro rfl
  exact h rfl

/-- Settles O8: away from `CMD` a bus write is `MemWrite`, which stores or is refused with `BADADDR`. -/
theorem busWriteStoresOrFaults : Obligations.BusWriteStoresOrFaults := by
  intro s addr v rest hn hidle
  rw [step_of_busWrite hn hidle]
  refine ⟨fun name hname hacc => ?_, fun hbad => ?_⟩
  · have hcmd : regAt s.profile addr ≠ some .cmd := by
      rw [hname]
      rintro ⟨⟩
      simp [accessOf] at hacc
    have hw := memWrite_of_regAt (s := s.taken rest) hname hacc v
    rcases busWrite_cases addr v (s.taken rest) with ⟨h, -⟩ | ⟨-, hnone, -⟩ | ⟨-, t, ht, hstep⟩
    · exact absurd h (ne_cmdOffset hcmd)
    · cases hw.symm.trans hnone
    · exact ⟨t, ht, hstep⟩
  · have hcmd : regAt s.profile addr ≠ some .cmd := by
      rcases hbad with hmis | hnone | ⟨name, hname, hro⟩
      · rw [regAt_of_misaligned _ hmis]
        nofun
      · rw [hnone]
        nofun
      · rw [hname]
        rintro ⟨⟩
        cases hro
    have hw : memWrite (s.taken rest) addr v = none :=
      memWrite_eq_none (s := s.taken rest) (hbad.imp_right (Or.imp_right .inr)) v
    rcases busWrite_cases addr v (s.taken rest) with ⟨h, -⟩ | ⟨-, -, hstep⟩ | ⟨-, t, ht, -⟩
    · exact absurd h (ne_cmdOffset hcmd)
    · exact hstep
    · cases hw.symm.trans ht

end Sys2Proof.Machine
end

section
/-! SUPPORT. What the encoder writes and what the decoder accepts (30_encoding.md R111 to R120): of both, the opcode, the zero
bits and the operands of the row. -/

namespace Sys2Proof

/-! ## Fields of a word -/

/-- A field is a concatenation exactly when its two parts are. -/
theorem fieldOf_eq_append_iff (bits : Word) (lo : Nat) {m n : Nat} (hi : BitVec m) (low : BitVec n) :
    fieldOf bits lo (m + n) = hi ++ low ↔ fieldOf bits (lo + n) m = hi ∧ fieldOf bits lo n = low := by
  have hjoin : fieldOf bits (lo + n) m ++ fieldOf bits lo n = fieldOf bits lo (m + n) :=
    BitVec.extractLsb'_append_extractLsb'_eq_extractLsb' rfl
  rw [← hjoin]
  refine ⟨fun h => ⟨?_, ?_⟩, by rintro ⟨rfl, rfl⟩; rfl⟩
  · simpa [BitVec.extractLsb'_append_eq_left] using congrArg (BitVec.extractLsb' n m) h
  · simpa [BitVec.extractLsb'_append_eq_right] using congrArg (BitVec.extractLsb' 0 n) h

/-- A field is zero exactly when its two parts are. -/
theorem fieldOf_eq_zero_iff (bits : Word) (lo m n : Nat) :
    fieldOf bits lo (m + n) = 0#(m + n) ↔ fieldOf bits (lo + n) m = 0#m ∧ fieldOf bits lo n = 0#n := by
  rw [← fieldOf_eq_append_iff, BitVec.zero_append_zero]

theorem fieldOf_eq_ofBool_iff (bits : Word) (j : Nat) (b : Bool) :
    fieldOf bits j 1 = BitVec.ofBool b ↔ bits.getLsbD j = b := by
  have hbit : fieldOf bits j 1 = BitVec.ofBool (bits.getLsbD j) := by
    apply BitVec.eq_of_getLsbD_eq
    intro k hk
    obtain rfl : k = 0 := by omega
    rw [getLsbD_fieldOf]
    simp
  rw [hbit, BitVec.ofBool_eq_iff_eq]

/-! ## The formats (30_encoding.md R111 to R115) -/

section

variable (op : Op) (bits : Word)

theorem fieldOf_all : fieldOf bits 0 32 = bits := BitVec.extractLsb'_eq_self

theorem formatR_eq_iff (rd rs1 rs2 : RegNum) (fn : BitVec 3) :
    formatR op rd rs1 rs2 fn = bits ↔
      fieldOf bits 26 6 = op.code ∧ fieldOf bits 22 4 = rd ∧ fieldOf bits 18 4 = rs1 ∧ fieldOf bits 14 4 = rs2 ∧
        fieldOf bits 3 11 = 0#11 ∧ fieldOf bits 0 3 = fn := by
  have h := fieldOf_eq_append_iff bits 0 (op.code ++ rd ++ rs1 ++ rs2 ++ 0#11) fn
  rw [fieldOf_eq_append_iff bits 3, fieldOf_eq_append_iff bits 14, fieldOf_eq_append_iff bits 18,
    fieldOf_eq_append_iff bits 22, fieldOf_all] at h
  exact eq_comm.trans (h.trans (by simp only [and_assoc]))

theorem formatI_eq_iff (rd : RegNum) (imm : BitVec 16) :
    formatI op rd imm = bits ↔
      fieldOf bits 26 6 = op.code ∧ fieldOf bits 22 4 = rd ∧ fieldOf bits 16 6 = 0#6 ∧ fieldOf bits 0 16 = imm := by
  have h := fieldOf_eq_append_iff bits 0 (op.code ++ rd ++ 0#6) imm
  rw [fieldOf_eq_append_iff bits 16, fieldOf_eq_append_iff bits 22, fieldOf_all] at h
  exact eq_comm.trans (h.trans (by simp only [and_assoc]))

theorem formatM_eq_iff (r : RegNum) (off : Offset) :
    formatM op r off = bits ↔
      fieldOf bits 26 6 = op.code ∧ fieldOf bits 22 4 = r ∧ fieldOf bits 12 10 = 0#10 ∧ fieldOf bits 0 12 = off := by
  have h := fieldOf_eq_append_iff bits 0 (op.code ++ r ++ 0#10) off
  rw [fieldOf_eq_append_iff bits 12, fieldOf_eq_append_iff bits 22, fieldOf_all] at h
  exact eq_comm.trans (h.trans (by simp only [and_assoc]))

theorem formatX_eq_iff (r : RegNum) (c : Bool) (idx : Index) :
    formatX op r c idx = bits ↔
      fieldOf bits 26 6 = op.code ∧ fieldOf bits 22 4 = r ∧ fieldOf bits 9 13 = 0#13 ∧ fieldOf bits 8 1 = BitVec.ofBool c ∧
        fieldOf bits 0 8 = idx := by
  have h := fieldOf_eq_append_iff bits 0 (op.code ++ r ++ 0#13 ++ BitVec.ofBool c) idx
  rw [fieldOf_eq_append_iff bits 8, fieldOf_eq_append_iff bits 9, fieldOf_eq_append_iff bits 22, fieldOf_all] at h
  exact eq_comm.trans (h.trans (by simp only [and_assoc]))

theorem formatZ_eq_iff : formatZ op = bits ↔ fieldOf bits 26 6 = op.code ∧ fieldOf bits 0 26 = 0#26 := by
  have h := fieldOf_eq_append_iff bits 0 op.code 0#26
  rw [fieldOf_all] at h
  exact eq_comm.trans h

/-! ## The rows -/

/-- The fields, by lowest bit and length, that are 0 in every word of a row: the bits its format calls zero (R111 to R115)
and the operand bits its row does not use; `matches_iff` ties them to the mask of R117. -/
@[simp] def Op.zeroFields : Op → List (Nat × Nat)
  | .nop | .pmuxwait | .derive => [(0, 26)]
  | .li | .lih => [(16, 6)]
  | .ldr | .str => [(12, 10)]
  | .sclmode => [(0, 14)]
  | .prescl => [(1, 13)]
  | .sclfac => [(3, 11)]
  | .sclauto => [(3, 11), (0, 2)]
  | .chrdim => [(2, 16)]
  | .windis | .assign | .blend | .clublend | .standby | .enable => [(8, 18)]
  | .pendbits | .cfgdone => [(8, 14)]
  | .fswait => [(9, 17)]

/-- The word has 0 in every zero field of the row. -/
def Op.ZeroFieldsClear (op : Op) (bits : Word) : Prop := ∀ f ∈ op.zeroFields, fieldOf bits f.1 f.2 = 0#f.2

/-- The word has the field value of the row that R118 reserves. -/
def Op.Reserved (op : Op) (bits : Word) : Prop := (op = .sclfac ∨ op = .chrdim) ∧ fieldOf bits 0 2 = 3#2

/-- The operands of a row read from a word, with nothing checked (R111 to R115); `decodeOperands_eq_ok_iff` and
`encode_eq_iff` tie it to the decoder and the encoder. -/
@[simp] def Op.operands : Op → Word → Instr
  | .nop, _ => .nop
  | .li, bits => .li (fieldOf bits 22 4) (fieldOf bits 0 16)
  | .lih, bits => .lih (fieldOf bits 22 4) (fieldOf bits 0 16)
  | .ldr, bits => .ldr (fieldOf bits 22 4) (fieldOf bits 0 12)
  | .str, bits => .str (fieldOf bits 22 4) (fieldOf bits 0 12)
  | .sclmode, bits => .sclmode (fieldOf bits 22 4) (fieldOf bits 18 4) (fieldOf bits 14 4)
  | .prescl, bits => .prescl (fieldOf bits 22 4) (fieldOf bits 18 4) (fieldOf bits 14 4) (bits.getLsbD 0)
  | .sclfac, bits =>
    .sclfac (fieldOf bits 22 4) (fieldOf bits 18 4) (fieldOf bits 14 4) (fieldOf bits 0 2) (bits.getLsbD 2)
  | .sclauto, bits => .sclauto (fieldOf bits 22 4) (fieldOf bits 18 4) (fieldOf bits 14 4) (bits.getLsbD 2)
  | .chrdim, bits => .chrdim (fieldOf bits 22 4) (fieldOf bits 18 4) (fieldOf bits 0 2)
  | .windis, bits => .windis (fieldOf bits 0 8)
  | .assign, bits => .assign (fieldOf bits 0 8)
  | .pmuxwait, _ => .pmuxwait
  | .derive, _ => .derive
  | .blend, bits => .blend (fieldOf bits 0 8)
  | .clublend, bits => .clublend (fieldOf bits 0 8)
  | .pendbits, bits => .pendbits (fieldOf bits 22 4) (fieldOf bits 0 8)
  | .cfgdone, bits => .cfgdone (fieldOf bits 22 4) (fieldOf bits 0 8)
  | .fswait, bits => .fswait (bits.getLsbD 8) (fieldOf bits 0 8)
  | .standby, bits => .standby (fieldOf bits 0 8)
  | .enable, bits => .enable (fieldOf bits 0 8)

@[simp] theorem Op.op_operands : (op.operands bits).op = op := by cases op <;> rfl

theorem Op.wellFormed_operands : (op.operands bits).wellFormed = true ↔ ¬ op.Reserved bits := by
  cases op <;> simp [Op.operands, Instr.wellFormed, Op.Reserved]

theorem ok_or_error_eq_ok_iff {p : Prop} [Decidable p] {a i : Instr} {e : Reject} :
    (if p then Except.ok a else Except.error e) = Except.ok i ↔ p ∧ a = i := by
  by_cases hp : p <;> simp [hp]

theorem error_or_ok_eq_ok_iff {p : Prop} [Decidable p] {a i : Instr} {e : Reject} :
    (if p then Except.error e else Except.ok a) = Except.ok i ↔ ¬ p ∧ a = i := by
  by_cases hp : p <;> simp [hp]

/-- What the decoder accepts of a row: zero bits 0, no reserved value; then it reads the operands. -/
theorem decodeOperands_eq_ok_iff (i : Instr) :
    decodeOperands op bits = .ok i ↔ op.ZeroFieldsClear bits ∧ ¬ op.Reserved bits ∧ op.operands bits = i := by
  cases op with
  | sclfac =>
    by_cases hzero : fieldOf bits 3 11 = 0#11 <;>
      simp [decodeOperands, Op.ZeroFieldsClear, Op.Reserved, error_or_ok_eq_ok_iff, hzero]
  | chrdim =>
    by_cases hzero : fieldOf bits 2 16 = 0#16 <;>
      simp [decodeOperands, Op.ZeroFieldsClear, Op.Reserved, error_or_ok_eq_ok_iff, hzero]
  | _ => simp [decodeOperands, Op.ZeroFieldsClear, Op.Reserved, ok_or_error_eq_ok_iff]

/-- The instructions that encode to a word: the word has their opcode, zero bits 0, and their operands. -/
theorem encode_eq_iff (i : Instr) :
    encode i = bits ↔ fieldOf bits 26 6 = i.op.code ∧ i.op.ZeroFieldsClear bits ∧ i.op.operands bits = i := by
  have hzero := fieldOf_eq_zero_iff bits
  have hflag (b : Bool) (low : BitVec 2) := fieldOf_eq_append_iff bits 0 (BitVec.ofBool b) low
  cases i with
  | nop | pmuxwait | derive => simp [encode, formatZ_eq_iff, Op.ZeroFieldsClear, Instr.op]
  | li | lih => simp [encode, formatI_eq_iff, Op.ZeroFieldsClear, Instr.op, and_left_comm]
  | ldr | str => simp [encode, formatM_eq_iff, Op.ZeroFieldsClear, Instr.op, and_left_comm]
  | sclmode =>
    simp [encode, formatR_eq_iff, Op.ZeroFieldsClear, Instr.op, hzero 0 11 3, and_assoc, and_comm]
  | prescl rd rs1 rs2 avg =>
    simp [encode, formatR_eq_iff, Op.ZeroFieldsClear, Instr.op, hzero 1 11 2,
      fieldOf_eq_append_iff bits 0 0#2 (BitVec.ofBool avg), fieldOf_eq_ofBool_iff, and_assoc, and_left_comm]
  | sclfac | sclauto =>
    simp [encode, formatR_eq_iff, Op.ZeroFieldsClear, Instr.op, hflag, fieldOf_eq_ofBool_iff, and_assoc, and_left_comm,
      and_comm]
  | chrdim rd rs1 sub =>
    simp [encode, formatR_eq_iff, Op.ZeroFieldsClear, Instr.op, hzero 2 15 1, hzero 3 4 11,
      fieldOf_eq_append_iff bits 0 0#1 sub, and_assoc, and_left_comm]
  | pendbits | cfgdone =>
    simp [encode, formatX_eq_iff, Op.ZeroFieldsClear, Instr.op, hzero 8 13 1, and_assoc, and_left_comm]
  | fswait =>
    simp [encode, formatX_eq_iff, Op.ZeroFieldsClear, Instr.op, hzero 9 4 13, fieldOf_eq_ofBool_iff, and_assoc]
  | windis | assign | blend | clublend | standby | enable =>
    simp [encode, formatX_eq_iff, Op.ZeroFieldsClear, Instr.op, hzero 8 17 1, hzero 9 4 13, and_assoc]

/-- The instructions a word decodes to: those that encode to it, but for the reserved values. -/
theorem decode_eq_ok_iff (i : Instr) :
    decode bits = .ok i ↔
      fieldOf bits 26 6 = i.op.code ∧ i.op.ZeroFieldsClear bits ∧ ¬ i.op.Reserved bits ∧ i.op.operands bits = i := by
  unfold decode
  cases hrow : Op.ofCode (fieldOf bits 26 6) with
  | none =>
    refine ⟨nofun, fun ⟨hcode, _⟩ => ?_⟩
    rw [hcode, Op.ofCode_code] at hrow
    cases hrow
  | some row =>
    have hcode : row.code = fieldOf bits 26 6 := Op.code_of_ofCode hrow
    refine (decodeOperands_eq_ok_iff row bits i).trans ⟨fun h => ?_, fun ⟨hi, h⟩ => ?_⟩
    · obtain rfl : i.op = row := by rw [← h.2.2, Op.op_operands]
      exact ⟨hcode.symm, h⟩
    · rwa [Op.code_injective row i.op (hcode.trans hi)]

end

/-- Settles O1: the decoder and the encoder accept the same opcode, zero bits and operands, and the decoder's further check
is well-formedness. -/
theorem decodeInvertsEncode : Obligations.DecodeInvertsEncode := by
  intro bits i
  have hwf (hi : i.op.operands bits = i) : i.wellFormed = true ↔ ¬ i.op.Reserved bits := by
    rw [← Op.wellFormed_operands, hi]
  rw [decode_eq_ok_iff, encode_eq_iff]
  constructor
  · rintro ⟨hcode, hclear, hres, hi⟩
    exact ⟨(hwf hi).mpr hres, hcode, hclear, hi⟩
  · rintro ⟨hw, hcode, hclear, hi⟩
    exact ⟨hcode, hclear, (hwf hi).mp hw, hi⟩

/-! ## The table of 30_encoding.md R117 -/

theorem fieldOf_eq_of_masked {bits mask value : Word} (h : bits &&& mask = value) {lo len : Nat}
    (hmask : fieldOf mask lo len = BitVec.allOnes len) : fieldOf bits lo len = fieldOf value lo len := by
  unfold fieldOf at *
  rw [← h, BitVec.extractLsb'_and, hmask, BitVec.and_allOnes]

theorem Op.mask_covers_zeroFields (op : Op) : ∀ f ∈ op.zeroFields,
    fieldOf op.maskWord f.1 f.2 = BitVec.allOnes f.2 ∧ fieldOf op.matchWord f.1 f.2 = 0#f.2 := by
  cases op <;> decide

/-- Every instruction's word matches its row. -/
theorem encode_matches (i : Instr) : encode i &&& i.op.maskWord = i.op.matchWord :=
  match i with
  | .nop => Laws.EncodeOpcode.nop
  | .li rd imm => Laws.EncodeOpcode.li rd imm
  | .lih rd imm => Laws.EncodeOpcode.lih rd imm
  | .ldr rd off => Laws.EncodeOpcode.ldr rd off
  | .str rs off => Laws.EncodeOpcode.str rs off
  | .sclmode rd rs1 rs2 => Laws.EncodeOpcode.sclmode rd rs1 rs2
  | .prescl rd rs1 rs2 avg => Laws.EncodeOpcode.prescl rd rs1 rs2 avg
  | .sclfac rd rs1 rs2 mode bil => Laws.EncodeOpcode.sclfac rd rs1 rs2 mode bil
  | .sclauto rd rs1 rs2 bil => Laws.EncodeOpcode.sclauto rd rs1 rs2 bil
  | .chrdim rd rs1 sub => Laws.EncodeOpcode.chrdim rd rs1 sub
  | .windis w => Laws.EncodeOpcode.windis w
  | .assign p => Laws.EncodeOpcode.assign p
  | .pmuxwait => Laws.EncodeOpcode.pmuxwait
  | .derive => Laws.EncodeOpcode.derive
  | .blend p => Laws.EncodeOpcode.blend p
  | .clublend w => Laws.EncodeOpcode.clublend w
  | .pendbits rd p => Laws.EncodeOpcode.pendbits rd p
  | .cfgdone rs p => Laws.EncodeOpcode.cfgdone rs p
  | .fswait c p => Laws.EncodeOpcode.fswait c p
  | .standby p => Laws.EncodeOpcode.standby p
  | .enable p => Laws.EncodeOpcode.enable p

theorem fieldOf_of_matches {op : Op} {bits : Word} (h : bits &&& op.maskWord = op.matchWord) :
    fieldOf bits 26 6 = op.code := by
  obtain ⟨hmask, hmatch⟩ := op.mask_covers_code
  exact (fieldOf_eq_of_masked h hmask).trans hmatch

/-- A row's mask and match word ask for its opcode and for 0 in its zero fields. -/
theorem matches_iff (op : Op) (bits : Word) :
    bits &&& op.maskWord = op.matchWord ↔ fieldOf bits 26 6 = op.code ∧ op.ZeroFieldsClear bits := by
  constructor
  · refine fun h => ⟨fieldOf_of_matches h, fun f hf => ?_⟩
    obtain ⟨hmask, hmatch⟩ := op.mask_covers_zeroFields f hf
    exact (fieldOf_eq_of_masked h hmask).trans hmatch
  · rintro ⟨hcode, hclear⟩
    have hencode : encode (op.operands bits) = bits := by
      rw [encode_eq_iff, Op.op_operands]
      exact ⟨hcode, hclear, rfl⟩
    have hmatch := encode_matches (op.operands bits)
    rwa [hencode, Op.op_operands] at hmatch

/-- Settles O2: a row's mask asks for what the decoder checks, and the opcode tells the rows apart. -/
theorem decodeFollowsTable : Obligations.DecodeFollowsTable := by
  refine ⟨fun bits op => ?_, fun bits op op' h h' => ?_⟩
  · change _ ↔ _ ∧ ¬ op.Reserved bits
    rw [matches_iff]
    constructor
    · rintro ⟨i, hdec, rfl⟩
      obtain ⟨hcode, hclear, hres, -⟩ := (decode_eq_ok_iff bits i).mp hdec
      exact ⟨⟨hcode, hclear⟩, hres⟩
    · rintro ⟨⟨hcode, hclear⟩, hres⟩
      refine ⟨op.operands bits, (decode_eq_ok_iff bits _).mpr ?_, op.op_operands bits⟩
      rw [Op.op_operands]
      exact ⟨hcode, hclear, hres, rfl⟩
  · exact Op.code_injective op op' ((fieldOf_of_matches h).symm.trans (fieldOf_of_matches h'))

end Sys2Proof
end

section
/-! SUPPORT. The acceptance of a command word (30_encoding.md R110, R120) and the fault of an index out of range (R121). -/

namespace Sys2Proof.Machine

/-! ## The acceptance of a word -/

theorem acceptWord_of_decode {bits : Word} {i : Instr} (h : decode bits = .ok i) (s : State) :
    acceptWord bits s = exec i s.countWord := by
  unfold acceptWord
  rw [h]

theorem acceptWord_of_illegal {bits : Word} (h : ∀ i, decode bits ≠ .ok i) (s : State) :
    acceptWord bits s = .next (commandFault s.countWord 0b000001 1) := by
  rcases acceptWord_cases bits s with ⟨_, -, hacc⟩ | ⟨i, hi, -⟩
  · rw [hacc, State.raise_illCmd]
  · exact absurd hi (h i)

/-- Settles O4: such a word decodes to nothing, by the table. -/
theorem illegalWordRaisesIllcmd : Obligations.IllegalWordRaisesIllcmd := by
  intro s bits hrows
  refine acceptWord_of_illegal (fun i hi => ?_) s
  obtain ⟨hmatch, hres⟩ := (decodeFollowsTable.1 bits i.op).mp ⟨i, hi, rfl⟩
  exact hres (hrows i.op hmatch)

/-- Settles O5: the step is a bus write to `CMD`, which accepts the word. -/
theorem stepRunsDecodedCommand : Obligations.StepRunsDecodedCommand := by
  intro s bits rest hn hidle
  have hstep : step s = acceptWord bits (s.taken rest) := step_of_busWrite hn hidle
  rw [hstep]
  exact ⟨fun i hi => acceptWord_of_decode hi _, fun hill => acceptWord_of_illegal hill _⟩

/-! ## An index out of range -/

theorem exec_of_port_out_of_range {i : Instr} {s : State} {idx : Index} {run : Nat → State}
    (hexec : exec i s = .next (s.withPort idx run)) (hidx : s.profile.nport ≤ idx.toNat) :
    exec i s = .next (commandFault s 0b000100 3) := by
  rw [hexec, State.withPort_of_le s run hidx, State.raise_badIndex]

theorem exec_of_window_out_of_range {i : Instr} {s : State} {idx : Index} {run : Nat → State}
    (hexec : exec i s = .next (s.withWindow idx run)) (hidx : s.profile.nwin ≤ idx.toNat) :
    exec i s = .next (commandFault s 0b000100 3) := by
  rw [hexec, State.withWindow_of_le s run hidx, State.raise_badIndex]

/-- CLUBLEND of a window that exists but is no cluster. -/
theorem exec_clublend_of_not_cluster {s : State} {w : Index} (hw : w.toNat < s.profile.nwin)
    (hclass : classOf s.profile w.toNat ≠ .cluster) :
    exec (.clublend w) s = .next (commandFault s 0b000100 3) := by
  simp only [exec, execClublend, State.withWindow_of_lt s _ hw, if_neg hclass, State.raise_badIndex]

/-- Settles O22: the port and window commands check their index first, and CLUBLEND the class after it. -/
theorem badIndexRaised : Obligations.BadIndexRaised := by
  refine fun s idx r c => ⟨fun hidx => ?_, fun hidx => ?_, exec_clublend_of_not_cluster⟩
  · intro i hi
    fin_cases hi <;> exact exec_of_port_out_of_range rfl hidx
  · intro i hi
    fin_cases hi <;> exact exec_of_window_out_of_range rfl hidx

end Sys2Proof.Machine
end

section
/-! SUPPORT. The register access commands NOP, LI, LIH, LDR and STR (40_register_access.md R140 to R148), and the words that the
rules of the spec write out. -/

namespace Sys2Proof.Machine

/-! ## The words -/

/-- A word decodes to the well-formed instruction that encodes to it. -/
theorem decode_of_encode {bits : Word} {i : Instr} (hw : i.wellFormed = true) (he : encode i = bits) :
    decode bits = .ok i :=
  (decodeInvertsEncode bits i).mpr ⟨hw, he⟩

theorem decode_eq_nop_iff (bits : Word) : decode bits = .ok .nop ↔ bits = 0 :=
  calc decode bits = .ok .nop
    _ ↔ Instr.nop.wellFormed = true ∧ encode .nop = bits := decodeInvertsEncode bits .nop
    _ ↔ (0 : Word) = bits := and_iff_right rfl
    _ ↔ bits = 0 := eq_comm

/-- Settles O3: each word is the encoding of its command. -/
theorem specWordsDecode : Obligations.SpecWordsDecode :=
  ⟨decode_of_encode rfl rfl, decode_of_encode rfl rfl, decode_of_encode rfl rfl, decode_of_encode rfl rfl,
    decode_of_encode rfl rfl, decode_of_encode rfl rfl, decode_of_encode rfl rfl⟩

/-! ## What each command does -/

section

variable (s : State) (r : RegNum)

theorem exec_nop : exec .nop s = .next s := rfl

theorem exec_li (imm : BitVec 16) : exec (.li r imm) s = .next (s.setReg r (0#16 ++ imm)) := by
  have hzext : imm.setWidth 32 = 0#16 ++ imm := BitVec.setWidth_eq_append (by decide)
  rw [← hzext]
  rfl

theorem exec_lih (imm : BitVec 16) :
    exec (.lih r imm) s = .next (s.setReg r (imm ++ (s.reg r).extractLsb' 0 16)) := rfl

theorem exec_ldr_of_some {addr : Offset} {v : Word} (h : memRead s addr = some v) :
    exec (.ldr r addr) s = .next (s.setReg r v) := by
  simp only [exec, execLdr, h]

theorem exec_ldr_of_none {addr : Offset} (h : memRead s addr = none) :
    exec (.ldr r addr) s = .next (commandFault s 0b001000 4) := by
  simp only [exec, execLdr, h, State.raise_badAddr]

theorem exec_str_of_some {addr : Offset} {t : State} (h : memWrite s addr (s.reg r) = some t) :
    exec (.str r addr) s = .next t := by
  simp only [exec, execStr, h]

theorem exec_str_of_none {addr : Offset} (h : memWrite s addr (s.reg r) = none) :
    exec (.str r addr) s = .next (commandFault s 0b001000 4) := by
  simp only [exec, execStr, h, State.raise_badAddr]

/-- The later of two writes to a register is the one that stays. -/
theorem State.setReg_setReg (v w : Word) : (s.setReg r v).setReg r w = s.setReg r w := by
  simp only [State.setReg, setAt_setAt]

theorem exec_lih_after_li (lo hi : BitVec 16) :
    exec (.lih r hi) (s.setReg r (0#16 ++ lo)) = .next (s.setReg r (hi ++ lo)) := by
  rw [exec_lih, State.reg_setReg_self, BitVec.extractLsb'_append_eq_right, State.setReg_setReg]

theorem exec_li_after_setReg (v : Word) (imm : BitVec 16) :
    exec (.li r imm) (s.setReg r v) = .next (s.setReg r (0#16 ++ imm)) := by
  rw [exec_li, State.setReg_setReg]

end

/-! ## The statements -/

/-- Settles O11: the encoding of NOP is 0, and its arm answers the state. -/
theorem nopDoesNothing : Obligations.NopDoesNothing := ⟨decode_eq_nop_iff, exec_nop⟩

/-- Settles O12: LI is one register write. -/
theorem liLoadsConstant : Obligations.LiLoadsConstant := fun s rd imm =>
  ⟨decode_of_encode rfl rfl, _, exec_li s rd imm, s.setReg_writesOnly rd _⟩

/-- Settles O13: LIH is one register write, and of two writes to `x[rd]` only the later shows. -/
theorem lihReplacesUpperHalf : Obligations.LihReplacesUpperHalf := fun s rd lo hi =>
  ⟨decode_of_encode rfl rfl,
    ⟨_, exec_lih s rd hi, s.setReg_writesOnly rd _⟩,
    ⟨_, _, exec_li s rd lo, exec_lih_after_li s rd lo hi, s.setReg_writesOnly rd _⟩,
    ⟨_, _, exec_lih s rd hi, exec_li_after_setReg s rd _ lo, s.setReg_writesOnly rd _⟩⟩

/-- Settles O14: LDR is MemRead and then one register write, or the fault where MemRead refuses. -/
theorem ldrReadsRegister : Obligations.LdrReadsRegister := by
  refine fun s rd addr => ⟨decode_of_encode rfl rfl, fun name hname hcmd => ?_, fun hbad => ?_⟩
  · have hread : memRead s addr = some (readReg s name) := memRead_of_regAt hname (accessOf_ne_wo hcmd)
    exact ⟨_, exec_ldr_of_some s rd hread, hread, s.setReg_writesOnly rd _⟩
  · have hcmd : addr = 0x008#12 → regAt s.profile addr = some .cmd := by rintro rfl; rfl
    exact exec_ldr_of_none s rd (memRead_eq_none (hbad.imp_right (Or.imp_right hcmd)))

/-- Settles O15: STR is MemWrite of `x[rs]`, or the fault where MemWrite refuses. -/
theorem strWritesRegister : Obligations.StrWritesRegister := by
  refine fun s rs addr => ⟨decode_of_encode rfl rfl, fun name hname hacc => ?_, fun hbad => ?_⟩
  · have hw : accessOf name = .rw ∨ accessOf name = .w1c := hacc.imp_right (by rintro rfl; rfl)
    have hwrite := memWrite_of_regAt hname hw (s.reg rs)
    exact ⟨_, exec_str_of_some s rs hwrite, hwrite⟩
  · exact exec_str_of_none s rs (memWrite_eq_none hbad _)

end Sys2Proof.Machine
end

section
/-! SUPPORT. The scaling commands SCLMODE, PRESCL, SCLFAC, SCLAUTO and CHRDIM (41_scaling.md R160 to R192). -/

namespace Sys2Proof.Machine

/-! ## The words: the zero bits before `fn` and inside it, written as one field -/

theorem append_zero_fn (x : BitVec 18) : x ++ 0#11 ++ 0#3 = x ++ 0#14 :=
  BitVec.append_assoc

theorem append_zero_append_flag (x : BitVec 18) (b : BitVec 1) : x ++ 0#11 ++ (0#2 ++ b) = x ++ 0#13 ++ b := by
  calc x ++ 0#11 ++ (0#2 ++ b)
    _ = x ++ 0#11 ++ 0#2 ++ b := BitVec.append_assoc.symm
    _ = x ++ 0#13 ++ b := congrArg (· ++ b) (BitVec.append_assoc (x₁ := x) (x₂ := 0#11) (x₃ := 0#2))

theorem append_zero_append_code (x : BitVec 18) (c : BitVec 2) : x ++ 0#11 ++ (0#1 ++ c) = x ++ 0#12 ++ c := by
  calc x ++ 0#11 ++ (0#1 ++ c)
    _ = x ++ 0#11 ++ 0#1 ++ c := BitVec.append_assoc.symm
    _ = x ++ 0#12 ++ c := congrArg (· ++ c) (BitVec.append_assoc (x₁ := x) (x₂ := 0#11) (x₃ := 0#1))

theorem append_flag_append_code (x : BitVec 29) (b : BitVec 1) (c : BitVec 2) : x ++ (b ++ c) = x ++ b ++ c :=
  BitVec.append_assoc.symm

/-! ## What a scaling command writes -/

/-- `t` is `s` with `v` in `x[rd]` and `f` in `FLAGS`; every other operand register and all other state is as it was. -/
abbrev WritesRegAndFlags (s t : State) (rd : RegNum) (v : Word) (f : Flags) : Prop :=
  t.reg rd = v ∧ (∀ r, r ≠ rd → t.reg r = s.reg r) ∧ t.flags = f ∧ { t with x := s.x, flags := s.flags } = s

theorem State.setReg_flags_writesRegAndFlags (s : State) (rd : RegNum) (v : Word) (f : Flags) :
    WritesRegAndFlags s { s.setReg rd v with flags := f } rd v f :=
  ⟨s.reg_setReg_self rd v, fun _ h => s.reg_setReg_ne v h, rfl, rfl⟩

/-- Both dimensions are in the domain of 41 R161. -/
theorem dimsOk_iff (v w : Word) :
    (dimOk v && dimOk w) = true ↔ 1 ≤ v.toNat ∧ v.toNat ≤ 65535 ∧ 1 ≤ w.toNat ∧ w.toNat ≤ 65535 := by
  rw [Bool.and_eq_true, dimOk_iff, dimOk_iff, and_assoc]

/-! ## SCLMODE and the codes of the modes (41 R160, R162) -/

theorem modeOfCode_modeCode (m : ScaleMode) : modeOfCode (modeCode m) = some m := by
  cases m <;> rfl

theorem modeCode_selectMode (v w : Word) :
    modeCode (selectMode v w) = if v.toNat = w.toNat then 0 else if v.toNat < w.toNat then 1 else 2 := by
  unfold selectMode
  simp only [← BitVec.toNat_inj]
  split_ifs <;> rfl

theorem exec_sclmode (s : State) (rd rs1 rs2 : RegNum) :
    exec (.sclmode rd rs1 rs2) s =
      .next (s.setReg rd ((modeCode (selectMode (s.reg rs1) (s.reg rs2))).setWidth 32)) := rfl

/-- Settles O16: SCLMODE is one register write, of the code of the selected mode. -/
theorem sclmodeSelectsMode : Obligations.SclmodeSelectsMode := by
  intro s rd rs1 rs2
  have hcode : (modeCode (selectMode (s.reg rs1) (s.reg rs2))).setWidth 32 =
      if s.reg rs1 = s.reg rs2 then 0#32 else if (s.reg rs1).toNat < (s.reg rs2).toNat then 1 else 2 := by
    simp only [modeCode_selectMode, BitVec.toNat_inj]
    split_ifs <;> rfl
  exact ⟨decode_of_encode rfl (append_zero_fn _), _, exec_sclmode s rd rs1 rs2,
    hcode ▸ s.setReg_writesOnly rd _⟩

/-! ## CHRDIM (41 R192) -/

theorem exec_chrdim_of_ne (s : State) (rd rs1 : RegNum) {sub : BitVec 2} (h : sub ≠ 3) :
    exec (.chrdim rd rs1 sub) s =
      .next (s.setReg rd (BitVec.ofNat 32 ((s.reg rs1).toNat / 2 ^ sub.toNat))) := by
  have hshift : s.reg rs1 >>> sub.toNat = BitVec.ofNat 32 ((s.reg rs1).toNat / 2 ^ sub.toNat) := by
    rw [← Nat.shiftRight_eq_div_pow, ← BitVec.toNat_ushiftRight, BitVec.ofNat_toNat, BitVec.setWidth_eq]
  simp only [exec, execChrdim, if_neg h, hshift]

theorem exec_chrdim_three (s : State) (rd rs1 : RegNum) :
    exec (.chrdim rd rs1 3) s = .next (commandFault s 0b000001 1) := rfl

/-- Settles O21: CHRDIM is one register write, of the shifted dimension, but for the reserved code. -/
theorem chrdimShiftsDimension : Obligations.ChrdimShiftsDimension := by
  refine fun s rd rs1 sub => ⟨fun h => ⟨?_, _, exec_chrdim_of_ne s rd rs1 h, s.setReg_writesOnly rd _⟩, ?_⟩
  · exact decode_of_encode (bne_iff_ne.mpr h) (append_zero_append_code _ sub)
  · rintro rfl
    exact exec_chrdim_three s rd rs1

/-! ## PRESCL (41 R170 to R173) -/

/-- How many low bits a pre-scale drops; `decimate_eq_div` and `Flags.setPrescale_eq` tie it to the model. -/
def Prescale.shift : Prescale → Nat
  | .none => 0
  | .by2 => 1
  | .by4 => 2

theorem prescaleOf_shift (c : Profile) (src dst : Nat) :
    (prescaleOf c src dst).shift =
      if c.prescaleCap = false then 0 else if 4 * dst ≤ src then 2 else if 2 * dst ≤ src then 1 else 0 := by
  unfold prescaleOf
  simp only [Bool.not_eq_true', ge_iff_le]
  split_ifs <;> rfl

theorem decimate_eq_div (p : Prescale) (src : Nat) : decimate p src = src / 2 ^ p.shift := by
  cases p with
  | none => exact (Nat.div_one src).symm
  | by2 => exact Nat.shiftRight_eq_div_pow src 1
  | by4 => exact Nat.shiftRight_eq_div_pow src 2

theorem decimate_le (p : Prescale) (src : Nat) : decimate p src ≤ src :=
  decimate_eq_div p src ▸ Nat.div_le_self src _

theorem Flags.setPrescale_eq (f : Flags) (useAvg : Bool) (p : Prescale) :
    f.setPrescale useAvg p =
      { gt2 := p.shift == 1 && !useAvg, gt4 := p.shift == 2 && !useAvg,
        avg2 := p.shift == 1 && useAvg, avg4 := p.shift == 2 && useAvg, cal := f.cal } := by
  cases p <;> rfl

section

variable {s : State} (rd : RegNum) {rs1 rs2 : RegNum} (avg : Bool)

theorem exec_prescl_of_dimsOk (h : (dimOk (s.reg rs1) && dimOk (s.reg rs2)) = true) :
    exec (.prescl rd rs1 rs2 avg) s =
      let p := prescaleOf s.profile (s.reg rs1).toNat (s.reg rs2).toNat
      .next { s.setReg rd (BitVec.ofNat 32 (decimate p (s.reg rs1).toNat)) with
        flags := s.flags.setPrescale (avg && s.profile.avgCap) p } :=
  if_pos h

theorem exec_prescl_of_not_dimsOk (h : ¬ (dimOk (s.reg rs1) && dimOk (s.reg rs2)) = true) :
    exec (.prescl rd rs1 rs2 avg) s = .next (commandFault s 0b000010 2) :=
  if_neg h

end

/-- Settles O17: PRESCL writes the decimated source and the flag of one and the same pre-scale. -/
theorem presclDecimates : Obligations.PresclDecimates := by
  intro s rd rs1 rs2 avg src dst shift useAvg
  refine ⟨decode_of_encode rfl (append_zero_append_flag _ _), fun hin => ?_, fun hout => ?_⟩
  · have hshift : (prescaleOf s.profile src dst).shift = shift := prescaleOf_shift s.profile src dst
    generalize hp : prescaleOf s.profile src dst = p at hshift
    obtain ⟨hrd, hframe, hflags, hrest⟩ := s.setReg_flags_writesRegAndFlags rd (BitVec.ofNat 32 (decimate p src))
      (s.flags.setPrescale useAvg p)
    refine ⟨_, hp ▸ exec_prescl_of_dimsOk rd avg ((dimsOk_iff _ _).mpr hin), ?_, hframe, ?_, hrest⟩
    · have hfits : decimate p src < 2 ^ 32 := (decimate_le p src).trans_lt (s.reg rs1).isLt
      rw [hrd, BitVec.toNat_ofNat, Nat.mod_eq_of_lt hfits, decimate_eq_div, hshift]
    · rw [hflags, Flags.setPrescale_eq, hshift]
  · exact exec_prescl_of_not_dimsOk rd avg (mt (dimsOk_iff _ _).mp hout)

/-! ## The factor (41 R180 to R186) -/

/-- The increment of both dimensions where either is 1 (41 R183). -/
def unitStep (src dst : Nat) : Nat := if src = 1 ∨ dst = 1 then 1 else 0

/-- The `N` of 41 R184, for the dimensions as given; `scaleFactor_eq` ties it and `ratioDen` to the model. -/
def ratioNum (k src dst : Nat) : Nat := (src + unitStep src dst - 1) * 2 ^ k

/-- The `D` of 41 R184, for the dimensions as given. -/
def ratioDen (src dst : Nat) : Nat := dst + unitStep src dst - 1

/-- The closed form of 41 R184. -/
theorem scaleFactor_eq {m : ScaleMode} (hm : m ≠ .none) (bil : Bool) {src dst : Nat} (hs : 1 ≤ src) (hd : 1 ≤ dst) :
    scaleFactor m bil src dst =
      ((ratioNum (fractionBits m bil) src dst - 1) / ratioDen src dst,
        decide (ratioNum (fractionBits m bil) src dst % ratioDen src dst = 0)) := by
  rw [scaleFactor_spec m bil src dst hm hs hd, (widenUnit_spec src dst hs hd).1, Nat.shiftLeft_eq]
  rfl

theorem fractionBits_le (m : ScaleMode) (bil : Bool) : fractionBits m bil ≤ 16 := by
  unfold fractionBits
  split_ifs <;> decide

theorem ratioNum_le {k src dst : Nat} (hk : k ≤ 16) (hs : src ≤ 65535) : ratioNum k src dst ≤ 65535 * 2 ^ 16 := by
  have hstep : unitStep src dst ≤ 1 := by
    unfold unitStep
    split_ifs <;> decide
  exact Nat.mul_le_mul (by omega) (Nat.pow_le_pow_right (by decide) hk)

/-- The bound of 41 R186. -/
theorem scaleFactor_le (m : ScaleMode) (bil : Bool) {src dst : Nat} (hs : 1 ≤ src) (hs' : src ≤ 65535) (hd : 1 ≤ dst) :
    (scaleFactor m bil src dst).1 ≤ 0xFFFEFFFF := by
  by_cases hm : m = .none
  · subst hm
    exact Nat.zero_le _
  · rw [scaleFactor_eq hm bil hs hd]
    calc (ratioNum (fractionBits m bil) src dst - 1) / ratioDen src dst
      _ ≤ ratioNum (fractionBits m bil) src dst - 1 := Nat.div_le_self _ _
      _ ≤ 65535 * 2 ^ 16 - 1 := Nat.sub_le_sub_right (ratioNum_le (fractionBits_le m bil) hs') 1

/-- `(N - 1) / D` is the largest `f` with `f * D < N` (41 R184). -/
theorem pred_div_is_largest {N D : Nat} (hN : 0 < N) (hD : 0 < D) :
    (N - 1) / D * D < N ∧ N ≤ ((N - 1) / D + 1) * D := by
  have hle : (N - 1) / D * D ≤ N - 1 := Nat.div_mul_le_self _ _
  have hlt : N - 1 < ((N - 1) / D + 1) * D := Nat.lt_mul_of_div_lt (Nat.lt_succ_self _) hD
  omega

/-! ## SCLFAC and SCLAUTO (41 R180, R188) -/

section

variable {s : State} (rd : RegNum) {rs1 rs2 : RegNum} {mode : BitVec 2} (bil : Bool)

theorem exec_sclfac_of_dimsOk {m : ScaleMode} (hm : modeOfCode mode = some m)
    (h : (dimOk (s.reg rs1) && dimOk (s.reg rs2)) = true) :
    exec (.sclfac rd rs1 rs2 mode bil) s =
      .next (s.writeFactor rd (scaleFactor m bil (s.reg rs1).toNat (s.reg rs2).toNat)) := by
  simp only [exec, execSclfac, hm, if_pos h]

theorem exec_sclfac_of_not_dimsOk {m : ScaleMode} (hm : modeOfCode mode = some m)
    (h : ¬ (dimOk (s.reg rs1) && dimOk (s.reg rs2)) = true) :
    exec (.sclfac rd rs1 rs2 mode bil) s = .next (commandFault s 0b000010 2) := by
  simp only [exec, execSclfac, hm, if_neg h, State.raise_operand]

theorem exec_sclfac_three : exec (.sclfac rd rs1 rs2 3 bil) s = .next (commandFault s 0b000001 1) := rfl

theorem exec_sclauto_of_dimsOk (h : (dimOk (s.reg rs1) && dimOk (s.reg rs2)) = true) :
    exec (.sclauto rd rs1 rs2 bil) s =
      .next (s.writeFactor rd
        (scaleFactor (selectMode (s.reg rs1) (s.reg rs2)) bil (s.reg rs1).toNat (s.reg rs2).toNat)) :=
  if_pos h

theorem exec_sclauto_of_not_dimsOk (h : ¬ (dimOk (s.reg rs1) && dimOk (s.reg rs2)) = true) :
    exec (.sclauto rd rs1 rs2 bil) s = .next (commandFault s 0b000010 2) :=
  if_neg h

end

/-- A mode that scales: its code, and the fraction bits by that code. -/
theorem modeOfCode_of_scales {mode : BitVec 2} (h : mode = 1 ∨ mode = 2) (bil : Bool) :
    ∃ m, modeOfCode mode = some m ∧ m ≠ .none ∧ fractionBits m bil = if mode = 2 ∧ bil = true then 12 else 16 := by
  rcases h with rfl | rfl
  · exact ⟨.up, rfl, nofun, rfl⟩
  · exact ⟨.down, rfl, nofun, by simp [fractionBits]⟩

theorem modeOfCode_of_ne_three {mode : BitVec 2} (h : mode ≠ 3) : ∃ m, modeOfCode mode = some m := by
  have hcases : ∀ c : BitVec 2, c ≠ 3 → c = 0 ∨ c = 1 ∨ c = 2 := by decide
  rcases hcases mode h with rfl | rfl | rfl
  exacts [⟨.none, rfl⟩, ⟨.up, rfl⟩, ⟨.down, rfl⟩]

/-- A factor written stands in the register whole, as no factor is cut (41 R186). -/
theorem State.writeFactor_toNat (s : State) (rd : RegNum) {r : Nat × Bool} (h : r.1 ≤ 0xFFFEFFFF) :
    ((s.writeFactor rd r).reg rd).toNat = r.1 := by
  have hreg : (s.writeFactor rd r).reg rd = BitVec.ofNat 32 r.1 := s.reg_setReg_self rd _
  rw [hreg, BitVec.toNat_ofNat, Nat.mod_eq_of_lt (by omega)]

theorem State.writeFactor_writesRegAndFlags (s : State) (rd : RegNum) (r : Nat × Bool) :
    WritesRegAndFlags s (s.writeFactor rd r) rd (BitVec.ofNat 32 r.1) (s.flags.setCal r.2) :=
  s.setReg_flags_writesRegAndFlags rd _ _

/-- SCLFAC with a mode that scales, over the whole domain of 41 R161: the state that it answers with the closed form. -/
theorem exec_sclfac_of_scales (s : State) (rd rs1 rs2 : RegNum) {mode : BitVec 2} (hmode : mode = 1 ∨ mode = 2)
    (bil : Bool) (hin : 1 ≤ (s.reg rs1).toNat ∧ (s.reg rs1).toNat ≤ 65535 ∧ 1 ≤ (s.reg rs2).toNat ∧
      (s.reg rs2).toNat ≤ 65535) :
    ∃ t, exec (.sclfac rd rs1 rs2 mode bil) s = .next t ∧
      let n := ratioNum (if mode = 2 ∧ bil = true then 12 else 16) (s.reg rs1).toNat (s.reg rs2).toNat
      let d := ratioDen (s.reg rs1).toNat (s.reg rs2).toNat
      (t.reg rd).toNat = (n - 1) / d ∧ (n - 1) / d ≤ 0xFFFEFFFF ∧
        WritesRegAndFlags s t rd (t.reg rd) { s.flags with cal := decide (n % d = 0) } := by
  obtain ⟨m, hm, hscales, hbits⟩ := modeOfCode_of_scales hmode bil
  have hexec := exec_sclfac_of_dimsOk rd bil hm ((dimsOk_iff _ _).mpr hin)
  obtain ⟨hs, hs', hd, -⟩ := hin
  have hbound := scaleFactor_le m bil hs hs' hd
  rw [scaleFactor_eq hscales bil hs hd, hbits] at hbound hexec
  obtain ⟨-, hframe, hflags, hrest⟩ := s.writeFactor_writesRegAndFlags rd _
  exact ⟨_, hexec, s.writeFactor_toNat rd hbound, hbound, rfl, hframe, hflags, hrest⟩

/-- Settles O18: the correction loop of R180 has the closed form of R184, whose value the register holds. -/
theorem sclfacIsClosedForm : Obligations.SclfacIsClosedForm := by
  intro s rd rs1 rs2 mode bil src dst inRange one n d
  refine ⟨fun hmode => ?_, fun hin hmode => ?_, fun hin hmode => ?_, ?_, fun hmode hout => ?_⟩
  · exact decode_of_encode (bne_iff_ne.mpr hmode) (append_flag_append_code _ _ _)
  · obtain ⟨t, hexec, hfac, -, -, hframe, hflags, hrest⟩ := exec_sclfac_of_scales s rd rs1 rs2 hmode bil hin
    exact ⟨t, hexec, hfac, hframe, hflags, hrest⟩
  · subst hmode
    exact ⟨_, exec_sclfac_of_dimsOk rd bil rfl ((dimsOk_iff _ _).mpr hin), s.writeFactor_writesRegAndFlags rd (0, false)⟩
  · rintro rfl
    exact exec_sclfac_three rd bil
  · obtain ⟨m, hm⟩ := modeOfCode_of_ne_three hmode
    exact exec_sclfac_of_not_dimsOk rd bil hm (mt (dimsOk_iff _ _).mp hout)

/-- Settles O19: the factor is the largest `f` with `f * D < N`, and `N` is `s - 1` shifted up. -/
theorem factorNeverOvershoots : Obligations.FactorNeverOvershoots := by
  intro s rd rs1 rs2 mode bil src dst k hs hs' hd hd' hmode
  obtain ⟨t, hexec, hfac, hbound, -⟩ :=
    exec_sclfac_of_scales s rd rs1 rs2 hmode bil ⟨Nat.le_of_succ_le hs, hs', Nat.le_of_succ_le hd, hd'⟩
  have hstep : unitStep src dst = 0 := if_neg (by omega)
  have hN : ratioNum k src dst = (src - 1) * 2 ^ k := by rw [ratioNum, hstep, Nat.add_zero]
  have hD : ratioDen src dst = dst - 1 := by rw [ratioDen, hstep, Nat.add_zero]
  have hk : 0 < 2 ^ k := Nat.two_pow_pos k
  have hpos : 0 < (src - 1) * 2 ^ k := Nat.mul_pos (by omega) hk
  obtain ⟨hbelow, habove⟩ := pred_div_is_largest hpos (D := dst - 1) (by omega)
  change (t.reg rd).toNat = (ratioNum k src dst - 1) / ratioDen src dst at hfac
  refine ⟨t, hexec, ?_, ?_, hfac.trans_le hbound⟩ <;> rw [hfac, hN, hD]
  · exact (Nat.div_lt_iff_lt_mul hk).mpr hbelow
  · exact (Nat.le_div_iff_mul_le hk).mpr habove

/-- Settles O20: the mode that SCLAUTO selects is the one that SCLFAC reads from the code of SCLMODE. -/
theorem sclautoIsModeThenFactor : Obligations.SclautoIsModeThenFactor := by
  intro s rd rs1 rs2 bil src dst mode
  refine ⟨decode_of_encode rfl (append_flag_append_code _ _ _), fun hin => ?_, fun hout => ?_⟩
  · have hok := (dimsOk_iff _ _).mpr hin
    have hmode : modeOfCode mode = some (selectMode (s.reg rs1) (s.reg rs2)) := by
      rw [← modeOfCode_modeCode, modeCode_selectMode]
    exact ⟨_, exec_sclauto_of_dimsOk rd bil hok, exec_sclfac_of_dimsOk rd bil hmode hok⟩
  · exact exec_sclauto_of_not_dimsOk rd bil (mt (dimsOk_iff _ _).mp hout)

end Sys2Proof.Machine
end

section
/-! SUPPORT. The layer assignment commands WINDIS, ASSIGN and PMUXWAIT (42_layer_assignment.md R200 to R220). -/

namespace Sys2Proof.Machine

/-! ## The words -/

/-- A word with an index as its only operand: the zero bits of format X before it, written as one field (30 R114). -/
theorem formatX_eq_append (op : Op) (idx : Index) : formatX op 0 false idx = op.code ++ 0#18 ++ idx := by
  have hzero : op.code ++ 0#4 ++ 0#13 ++ BitVec.ofBool false = op.code ++ 0#18 := by cases op <;> rfl
  exact congrArg (· ++ idx) hzero

/-! ## What each command answers -/

section

variable {s : State}

theorem exec_windis_of_lt {w : Index} (hw : w.toNat < s.profile.nwin) :
    exec (.windis w) s = .next (s.modWin w.toNat fun win =>
      { win with
        en := false
        sub := if classOf s.profile w.toNat = .cluster then { win.sub with en := false } else win.sub }) :=
  congrArg _ (s.withWindow_of_lt _ hw)

theorem exec_assign_of_oneHot {p : Index} (hc : s.profile.WellFormed) (hp : p.toNat < s.profile.nport)
    (h : VpMasksOneHot s) : exec (.assign p) s = .next (s.assign p.toNat) := by
  have hok : assignable s = true := (assignable_iff (Profile.nport_le_four hc)).mpr h
  simp only [exec, execAssign, State.withPort_of_lt s _ hp, if_pos hok]

theorem exec_assign_of_not_oneHot {p : Index} (hc : s.profile.WellFormed) (hp : p.toNat < s.profile.nport)
    (h : ¬ VpMasksOneHot s) : exec (.assign p) s = .next (commandFault s 0b010000 5) := by
  have hbad : ¬ assignable s = true := mt (assignable_iff (Profile.nport_le_four hc)).mp h
  simp only [exec, execAssign, State.withPort_of_lt s _ hp, if_neg hbad, State.raise_badCfg]

theorem exec_blend_of_rangeChg {p : Index} (hp : p.toNat < s.profile.nport) (h : (s.port p.toNat).rangeChg = true) :
    exec (.blend p) s = .next (commandFault s 0b010000 5) := by
  simp only [exec, execBlend, State.withPort_of_lt s _ hp, if_pos h, State.raise_badCfg]

theorem exec_pmuxwait_of_eq (h : s.portMuxAct = s.portMux) : exec .pmuxwait s = .next s :=
  congrArg _ (s.hold_of_condition (q := 0) .pmuxwait ((waitCondition_pmux s 0).trans (decide_eq_true h)))

theorem exec_pmuxwait_of_ne (h : s.portMuxAct ≠ s.portMux) :
    exec .pmuxwait s = .next { s with wait := .waiting .pmux 0 .pmuxwait } :=
  congrArg _ (s.hold_of_not_condition .pmuxwait ((waitCondition_pmux s 0).trans (decide_eq_false h)))

/-! ## The masks and the ranges (42 R211, R212) -/

variable {P : Nat}

/-- The statements' claim is that of `migrate`, for a window that exists. -/
theorem claimed_eq_true_iff (w : Nat) :
    claimed s P w = true ↔ w < s.profile.nwin ∧ claims s.wins s.ports P w = true := by
  simp only [claimed, claims, State.win, State.port, Bool.and_eq_true, decide_eq_true_eq, and_assoc]

theorem claims_eq_true_iff (w : Nat) :
    claims s.wins s.ports P w = true ↔
      (s.win w).en = true ∧ namesPort (s.win w).vpMask P = true ∧ (s.port P).winMask.getLsbD w = false := by
  simp only [claims, State.win, State.port, Bool.and_eq_true, Bool.not_eq_true', and_assoc]

/-- A mask bit after migration (42 R211). -/
theorem migrated_mask_bit (hc : s.profile.WellFormed) (hP : P < s.profile.nport) {q w : Nat}
    (hq : q < s.profile.nport) (hw : w < 8) :
    (getAt (s.migrated P) q).winMask.getLsbD w =
      if claimed s P w = true then decide (q = P) else (s.port q).winMask.getLsbD w := by
  obtain ⟨-, hbits, -⟩ := migrate_spec s.profile s.wins P s.ports (Profile.nport_le_four hc) hP (Profile.nwin_le_eight hc)
  simp only [State.migrated, hbits q w hw, claimed_eq_true_iff, hq, true_and, State.port]

/-- A port above those that exist keeps its mask. -/
theorem migrated_port_of_le (hc : s.profile.WellFormed) (hP : P < s.profile.nport) {q : Nat}
    (hq : s.profile.nport ≤ q) : getAt (s.migrated P) q = s.port q := by
  obtain ⟨hframe, hbits, -⟩ :=
    migrate_spec s.profile s.wins P s.ports (Profile.nport_le_four hc) hP (Profile.nwin_le_eight hc)
  have hmask : (getAt (s.migrated P) q).winMask = (s.port q).winMask := by
    apply BitVec.eq_of_getLsbD_eq
    intro w hw
    rw [State.migrated, hbits q w hw, if_neg (by omega)]
    rfl
  calc getAt (s.migrated P) q
    _ = { getAt (s.migrated P) q with winMask := (s.port q).winMask } := by rw [← hmask]
    _ = s.port q := hframe q

/-- The ports that lost a window in migration (42 R211). -/
theorem lostTo_eq_true_iff (hc : s.profile.WellFormed) (hP : P < s.profile.nport) {q : Nat} (hq : q < s.profile.nport)
    (hne : q ≠ P) :
    (s.lostTo P).getLsbD q = true ↔ ∃ w < 8, claimed s P w = true ∧ (s.port q).winMask.getLsbD w = true := by
  have h8 := Profile.nwin_le_eight hc
  obtain ⟨-, -, hlost⟩ := migrate_spec s.profile s.wins P s.ports (Profile.nport_le_four hc) hP h8
  calc (s.lostTo P).getLsbD q = true
    _ ↔ ∃ w < s.profile.nwin, claims s.wins s.ports P w = true ∧ (s.port q).winMask.getLsbD w = true :=
      (hlost q).trans ⟨fun ⟨_, _, h⟩ => h, fun h => ⟨hq, hne, h⟩⟩
    _ ↔ ∃ w < 8, claimed s P w = true ∧ (s.port q).winMask.getLsbD w = true := by
      simp only [claimed_eq_true_iff]
      exact ⟨fun ⟨w, hw, hcl, hbit⟩ => ⟨w, hw.trans_le h8, ⟨hw, hcl⟩, hbit⟩,
        fun ⟨w, _, ⟨hw, hcl⟩, hbit⟩ => ⟨w, hw, hcl, hbit⟩⟩

/-- Without a claim every port keeps its mask. -/
theorem migrated_mask_of_no_claim (hc : s.profile.WellFormed) (hP : P < s.profile.nport)
    (hno : ∀ w < s.profile.nwin, claimed s P w = false) {q : Nat} (hq : q < s.profile.nport) :
    (getAt (s.migrated P) q).winMask = (s.port q).winMask := by
  apply BitVec.eq_of_getLsbD_eq
  intro w hw
  rw [migrated_mask_bit hc hP hq hw, if_neg]
  intro hcl
  have hlt := ((claimed_eq_true_iff w).mp hcl).1
  simp [hno w hlt] at hcl

/-- A lower port's range ends where a higher one's starts, or before (42 R212). -/
theorem startOf_add_windowCount_le_startOf (ports : Vector Port 4) {p q : Nat} (h : p < q) :
    startOf ports p + windowCount ports p ≤ startOf ports q := by
  rw [← startOf_succ]
  induction q, h using Nat.le_induction with
  | base => exact le_rfl
  | succ q _ ih => exact ih.trans (startOf_succ ports q ▸ Nat.le_add_right _ _)

/-! ## The fields that ASSIGN leaves (42 R200, R210) -/

/-- Steps 1 and 2 write nothing of a port but its mask, its range and `RANGE_CHG` (42 R211, R212). -/
theorem recounted_congr {β : Type} (g : Port → β)
    (hg : ∀ pt r m w st, g { pt with rangeChg := r, winMask := m, wcnt := w, start := st } = g pt)
    (s : State) (P q : Nat) : g (getAt (s.recounted P) q) = g (s.port q) := by
  have hmig : g (getAt (s.migrated P) q) = g (s.port q) :=
    migrate_congr g (fun pt m => hg pt pt.rangeChg m pt.wcnt pt.start) s.profile s.wins P s.ports q
  rw [State.recounted, getAt_recount]
  split
  · exact (hg _ _ (getAt (s.migrated P) q).winMask _ _).trans hmig
  · exact hmig

/-- Steps 3 to 5 write no other port (42 R210). -/
theorem assign_port_of_ne (s : State) {P q : Nat} (h : q ≠ P) : (s.assign P).port q = getAt (s.recounted P) q :=
  getAt_modAt_ne _ _ h

theorem assign_port_of_le (hc : s.profile.WellFormed) (hP : P < s.profile.nport) {q : Nat} (hq : s.profile.nport ≤ q) :
    (s.assign P).port q = s.port q := by
  rw [assign_port_of_ne s (by omega), State.recounted, getAt_recount, if_neg (by omega), migrated_port_of_le hc hP hq]

/-- `LSEL_CHG` of `P` is set on a changed selector and never cleared (42 R216). -/
theorem assign_lselChg_self (s : State) {P : Nat} (hP : P < 4) :
    ((s.assign P).port P).lselChg = ((s.port P).lselChg || decide ((s.assign P).layerSel ≠ s.layerSel)) := by
  have hold := recounted_congr Port.lselChg (fun _ _ _ _ _ => rfl) s P P
  have hself := congrArg Port.lselChg (getAt_modAt_self (s.recounted P)
    (fun pt => { pt with
      nrLayers := BitVec.ofNat 4 (s.activeWindows P).length
      lselChg := pt.lselChg || decide ((s.assign P).layerSel ≠ s.layerSel) }) hP)
  exact hself.trans (by rw [hold])

/-! ## The windows placed (42 R213, R214) -/

theorem activeOn_eq_true_iff (wins : Vector Window 8) (ports : Vector Port 4) (P w : Nat) :
    activeOn wins ports P w = true ↔
      (getAt wins w).en = true ∧ namesPort (getAt wins w).vpMask P = true ∧ (getAt ports P).winMask.getLsbD w = true := by
  simp only [activeOn, Bool.and_eq_true, and_assoc]

/-- After migration every window enabled for `P` is in `P`'s mask, so that the active windows are those enabled for `P`
(42 R201, R211). -/
theorem mem_activeWindows (hc : s.profile.WellFormed) (hP : P < s.profile.nport) (w : Nat) :
    w ∈ s.activeWindows P ↔ w < s.profile.nwin ∧ (s.win w).en = true ∧ (s.win w).vpMask = 1#4 <<< P := by
  have hname : namesPort (s.win w).vpMask P = true ↔ (s.win w).vpMask = 1#4 <<< P :=
    (namesPort_iff _ P).trans (and_iff_right (hP.trans_le (Profile.nport_le_four hc)))
  rw [State.activeWindows, mem_sortActive, activeOn_eq_true_iff, getAt_recounted hc hP, ← hname]
  refine and_congr_right fun hw => and_congr_right fun hen => and_iff_left_of_imp fun hvp => ?_
  change (getAt (s.migrated P) P).winMask.getLsbD w = true
  rw [migrated_mask_bit hc hP hP (hw.trans_le (Profile.nwin_le_eight hc))]
  split
  · exact decide_eq_true rfl
  · next hcl =>
    rw [claimed_eq_true_iff, claims_eq_true_iff] at hcl
    by_contra hbit
    exact hcl ⟨hw, hen, hvp, Bool.eq_false_iff.mpr hbit⟩

/-- What step 4 leaves in the selector (42 R214): the active windows on the layers from START up, and on every layer
outside them the window it had, unless that one is active. -/
theorem assign_layerSel (hc : s.profile.WellFormed) (hP : P < s.profile.nport) (hmasks : MasksSound s)
    (hsel : SelectorSound s.profile s.layerSel) :
    (∀ z w, (s.activeWindows P)[z]? = some w →
      getAt (s.assign P).layerSel (startOf (s.migrated P) P + z) = selCode s.profile w) ∧
    (∀ l, ¬ (startOf (s.migrated P) P ≤ l ∧ l < startOf (s.migrated P) P + (s.activeWindows P).length) →
      (∀ w ∈ s.activeWindows P, getAt s.layerSel l ≠ selCode s.profile w) →
      getAt (s.assign P).layerSel l = getAt s.layerSel l) := by
  have hlen := activeWindows_length_le (s := s) hc hP
  have hrange := migrated_range_le hc hP hmasks hP
  have hfirst : (getAt (s.recounted P) P).start.toNat = startOf (s.migrated P) P := by
    rw [← assign_start_toNat hc hP hmasks hP, assign_port_recounted Port.start (fun _ _ _ => rfl)]
  have hfit : startOf (s.migrated P) P + (s.activeWindows P).length ≤ s.profile.nlayer := by
    rw [Profile.nlayer_eq_nwin hc]
    omega
  rw [← hfirst] at hfit ⊢
  obtain ⟨-, hspec⟩ := placeWindows_spec hc _ (s.activeWindows P) s.layerSel hsel
    (fun w hw => ((mem_sortActive _ _ _ _ _).mp hw).1) (nodup_sortActive _ _ _ _) hfit
  exact hspec

/-- `NRLAYERS` of `P` holds the whole number of active windows (42 R213). -/
theorem assign_nrLayers_toNat (hc : s.profile.WellFormed) (hP : P < s.profile.nport) (hmasks : MasksSound s) :
    ((s.assign P).port P).nrLayers.toNat = (s.activeWindows P).length := by
  have hlen := activeWindows_length_le (s := s) hc hP
  have hrange := migrated_range_le hc hP hmasks hP
  have h8 := Profile.nwin_le_eight hc
  rw [assign_nrLayers_self (hP.trans_le (Profile.nport_le_four hc)), BitVec.toNat_ofNat]
  omega

/-- Without a claim the layers that `P` fills are outside the range of every other port (42 R212, R218). -/
theorem not_filled_of_in_other_range (hs : AssignmentSound s) (hP : P < s.profile.nport)
    (hno : ∀ w < s.profile.nwin, claimed s P w = false) {q : Nat} (hq : q < s.profile.nport) (hne : q ≠ P) {l : Nat}
    (hlo : (s.port q).start.toNat ≤ l) (hhi : l < (s.port q).start.toNat + (s.port q).wcnt.toNat) :
    ¬ (startOf (s.migrated P) P ≤ l ∧ l < startOf (s.migrated P) P + (s.activeWindows P).length) := by
  obtain ⟨hc, -, hcounts, -⟩ := hs
  obtain ⟨hwcnt, hstart⟩ := hcounts q hq
  have hlen := activeWindows_length_le (s := s) hc hP
  have hcountP : windowCount (s.migrated P) P = windowCount s.ports P :=
    windowCount_congr (migrated_mask_of_no_claim hc hP hno hP)
  have hstartP : startOf (s.migrated P) P = startOf s.ports P :=
    startOf_congr fun r hr => migrated_mask_of_no_claim hc hP hno (hr.trans hP)
  rcases Nat.lt_or_gt_of_ne hne with hlt | hgt
  · have hbelow := startOf_add_windowCount_le_startOf s.ports hlt
    omega
  · have habove := startOf_add_windowCount_le_startOf s.ports hgt
    omega

end

/-! ## The statements -/

/-- Settles O26: ASSIGN leaves the masks of migration. -/
theorem assignMovesWindows : Obligations.AssignMovesWindows := by
  intro s p hc hp hvp
  refine ⟨_, exec_assign_of_oneHot hc hp hvp, fun q hq w hw => ?_⟩
  rw [assign_winMask hc hq, migrated_mask_bit hc hp hq hw]

/-- Settles O27: counts, starts and port mux are those of the invariant that ASSIGN establishes. -/
theorem assignCountsRanges : Obligations.AssignCountsRanges := by
  intro s p hc hp hvp hmasks
  refine ⟨_, exec_assign_of_oneHot hc hp hvp, fun q hq => ?_⟩
  obtain ⟨hwcnt, hstart⟩ := assign_countsSound hc hp hmasks q hq
  refine ⟨hwcnt, hstart, assign_muxSound hc hp hmasks q hq, ?_⟩
  rw [assign_rangeChg hc hq, ← assign_start hc hq]
  by_cases hqp : q = p.toNat
  · simp [hqp]
  · rw [if_neg hqp, Bool.or_eq_true, Bool.or_eq_true, bne_iff_ne, lostTo_eq_true_iff hc hp hq hqp, or_assoc]
    exact (and_iff_right hqp).symm

/-- Settles O28: the active windows are sorted and placed, and they fit the mask of `P`. -/
theorem assignPlacesSortedWindows : Obligations.AssignPlacesSortedWindows := by
  intro s p hs hp hvp
  obtain ⟨-, -, -, -, -, hsel', -⟩ := assign_assignmentSound hs hp
  obtain ⟨hc, hmasks, -, -, -, hsel, -⟩ := hs
  obtain ⟨hplaced, -⟩ := assign_layerSel hc hp hmasks hsel
  have hfit := activeWindows_length_le (s := s) hc hp
  rw [← assign_wcnt_toNat hc hp hmasks hp] at hfit
  rw [← assign_start_toNat hc hp hmasks hp] at hplaced
  exact ⟨s.assign p.toNat, s.activeWindows p.toNat, exec_assign_of_oneHot hc hp hvp, mem_activeWindows hc hp,
    sortActive_sorted _ _ _ _, assign_nrLayers_toNat hc hp hmasks, hfit, hplaced, hsel'⟩

/-- Settles O29: each step of ASSIGN writes only its own fields. -/
theorem assignFrame : Obligations.AssignFrame := by
  intro s p hc hp hvp
  refine ⟨decode_of_encode rfl (formatX_eq_append .assign p), _, exec_assign_of_oneHot hc hp hvp,
    assign_lselChg_self s (hp.trans_le (Profile.nport_le_four hc)), fun q hq => ?_, fun q _ => ?_,
    fun q hq => assign_port_of_le hc hp hq, rfl⟩
  · rw [assign_port_of_ne s hq]
    exact ⟨recounted_congr Port.lselChg (fun _ _ _ _ _ => rfl) s _ q,
      recounted_congr Port.nrLayers (fun _ _ _ _ _ => rfl) s _ q⟩
  · exact assign_port_congr (fun pt => { pt with
      lselChg := (s.port q).lselChg, rangeChg := (s.port q).rangeChg, winMask := (s.port q).winMask
      nrLayers := (s.port q).nrLayers, wcnt := (s.port q).wcnt, start := (s.port q).start })
      (fun _ _ _ _ _ _ _ => rfl) s p.toNat q

/-- Settles O31: the layer lies outside those that ASSIGN fills, and its window is not active on `P`. -/
theorem assignKeepsOtherPortsLayers : Obligations.AssignKeepsOtherPortsLayers := by
  intro s p hs hp hvp hno
  obtain ⟨hc, hmasks, -, -, -, hsel, -⟩ := id hs
  obtain ⟨-, hkept⟩ := assign_layerSel hc hp hmasks hsel
  refine ⟨_, exec_assign_of_oneHot hc hp hvp, fun q hq hne w hw l hmask hlo hhi hl => ?_⟩
  refine (hkept l (not_filled_of_in_other_range hs hp hno hq hne hlo hhi) fun v hv hcode => hne ?_).trans hl
  obtain ⟨hvn, -, hvmask⟩ := (mem_activeWindows hc hp v).mp hv
  obtain rfl : w = v := Profile.selCode_inj hc hw hvn (hl.symm.trans hcode)
  have h4 := Profile.nport_le_four hc
  exact namesPort_unique ((namesPort_iff _ q).mpr ⟨hq.trans_le h4, hmask⟩)
    ((namesPort_iff _ p.toNat).mpr ⟨hp.trans_le h4, hvmask⟩)

/-- Settles O25: WINDIS is one window update. -/
theorem windisDisablesWindow : Obligations.WindisDisablesWindow := by
  intro s w hc
  refine ⟨decode_of_encode rfl (formatX_eq_append .windis w), fun hw => ?_, exec_of_window_out_of_range rfl⟩
  obtain ⟨hself, hothers, hrest⟩ := s.modWin_windowOnly (w := w.toNat) (fun win =>
    { win with
      en := false
      sub := if classOf s.profile w.toNat = .cluster then { win.sub with en := false } else win.sub })
    (hw.trans_le (Profile.nwin_le_eight hc))
  refine ⟨_, exec_windis_of_lt hw, hself.trans ?_, hothers, hrest⟩
  split <;> rfl

/-- Settles O30: ASSIGN checks the routing of every window, BLEND the flag of its port. -/
theorem badConfigurationRaised : Obligations.BadConfigurationRaised := fun _ _ hc hp =>
  ⟨exec_assign_of_not_oneHot hc hp, exec_blend_of_rangeChg hp⟩

/-- Settles O32: the wait's condition is the equality of the two port muxes. -/
theorem pmuxwaitEndsOrWaits : Obligations.PmuxwaitEndsOrWaits :=
  ⟨decode_of_encode rfl rfl, fun _ => ⟨exec_pmuxwait_of_eq, exec_pmuxwait_of_ne⟩⟩

end Sys2Proof.Machine
end

section
/-! SUPPORT. The blend commands DERIVE, BLEND and CLUBLEND (43_blend.md R240 to R278). -/

namespace Sys2Proof.Machine

/-! ## The control words -/

/-- A packed word, field by field (10 R55). -/
theorem packControl_eq_iff (f : ControlWord) (v : Word) :
    packControl f = v ↔
      fieldOf v 24 8 = 0#8 ∧ fieldOf v 16 8 = f.glbAlpha ∧ fieldOf v 10 6 = 0#6 ∧ v.getLsbD 9 = f.srcDstSwap ∧
        v.getLsbD 8 = f.alphaEn ∧ fieldOf v 5 3 = f.factorMode ∧ fieldOf v 4 1 = flagBit f.alphaCalMode ∧
        fieldOf v 2 2 = f.blendMode ∧ fieldOf v 1 1 = 0#1 ∧ v.getLsbD 0 = f.colorMode := by
  have h := fieldOf_eq_append_iff v 0 (0#8 ++ f.glbAlpha ++ 0#6 ++ flagBit f.srcDstSwap ++ flagBit f.alphaEn ++
    f.factorMode ++ flagBit f.alphaCalMode ++ f.blendMode ++ 0#1) (flagBit f.colorMode)
  rw [fieldOf_eq_append_iff v 1, fieldOf_eq_append_iff v 2, fieldOf_eq_append_iff v 4, fieldOf_eq_append_iff v 5,
    fieldOf_eq_append_iff v 8, fieldOf_eq_append_iff v 9, fieldOf_eq_append_iff v 10, fieldOf_eq_append_iff v 16,
    fieldOf_all, fieldOf_eq_ofBool_iff v 9, fieldOf_eq_ofBool_iff v 8, fieldOf_eq_ofBool_iff v 0] at h
  exact eq_comm.trans (h.trans (by simp only [and_assoc]))

/-! Spans of neighbouring fields that a word leaves 0. -/

section

variable {f : ControlWord}

theorem packControl_low_zero (hcolor : f.colorMode = false) : fieldOf (packControl f) 0 2 = 0 := by
  obtain ⟨-, -, -, -, -, -, -, -, hgap, hbit⟩ := (packControl_eq_iff f _).mp rfl
  exact (fieldOf_eq_zero_iff _ 0 1 1).mpr ⟨hgap, (fieldOf_eq_ofBool_iff _ 0 false).mpr (hbit.trans hcolor)⟩

theorem packControl_modes_zero (hblend : f.blendMode = 0) (hcal : f.alphaCalMode = false) :
    fieldOf (packControl f) 1 4 = 0 := by
  obtain ⟨-, -, -, -, -, -, hcalBit, hmode, hgap, -⟩ := (packControl_eq_iff f _).mp rfl
  rw [hcal] at hcalBit
  exact (fieldOf_eq_zero_iff _ 1 1 3).mpr ⟨hcalBit, (fieldOf_eq_zero_iff _ 1 2 1).mpr ⟨hmode.trans hblend, hgap⟩⟩

theorem packControl_enables_zero (hen : f.alphaEn = false) (hswap : f.srcDstSwap = false) :
    fieldOf (packControl f) 8 8 = 0 := by
  obtain ⟨-, -, hgap, hswapBit, henBit, -⟩ := (packControl_eq_iff f _).mp rfl
  exact (fieldOf_eq_zero_iff _ 8 7 1).mpr ⟨(fieldOf_eq_zero_iff _ 9 6 1).mpr
    ⟨hgap, (fieldOf_eq_ofBool_iff _ 9 false).mpr (hswapBit.trans hswap)⟩,
    (fieldOf_eq_ofBool_iff _ 8 false).mpr (henBit.trans hen)⟩

theorem packControl_high_zero (hen : f.alphaEn = false) (hswap : f.srcDstSwap = false) (hglb : f.glbAlpha = 0) :
    fieldOf (packControl f) 8 24 = 0 := by
  obtain ⟨htop, halpha, -⟩ := (packControl_eq_iff f _).mp rfl
  exact (fieldOf_eq_zero_iff _ 8 16 8).mpr
    ⟨(fieldOf_eq_zero_iff _ 16 8 8).mpr ⟨htop, halpha.trans hglb⟩, packControl_enables_zero hen hswap⟩

end

/-- `blend_mode` of a record (43 R242). -/
theorem blendMode_eq (pix : Bool) (glb : BitVec 8) :
    blendMode pix (glb != 0xFF) = if pix = false then 0 else if glb = 0xFF then 1 else 2 := by
  unfold blendMode
  cases pix with
  | false => rfl
  | true => by_cases h : glb = 0xFF <;> simp [h]

/-- `color_mode` is 0 in the mode with both alphas (43 R243). -/
theorem ite_false_eq_bne_and (mode : BitVec 2) (b : Bool) : (if mode = 2 then false else b) = (mode != 2 && b) := by
  by_cases h : mode = 2
  · rw [if_pos h, h]
    rfl
  · rw [if_neg h, bne_iff_ne.mpr h, Bool.true_and]

/-! ## What each command answers -/

theorem exec_derive (s : State) : exec .derive s = .next { s with bw := deriveWords s.acfg false } := rfl

section

variable {s : State}

theorem exec_blend_of_not_rangeChg {p : Index} (hp : p.toNat < s.profile.nport)
    (h : (s.port p.toNat).rangeChg = false) : exec (.blend p) s = .next (s.blend p.toNat) := by
  simp only [exec, execBlend, State.withPort_of_lt s _ hp, h, Bool.false_eq_true, if_false]

theorem exec_clublend_of_cluster {w : Index} (hw : w.toNat < s.profile.nwin)
    (hclass : classOf s.profile w.toNat = .cluster) :
    exec (.clublend w) s = .next (s.modWin w.toNat fun win =>
      { win with clu := deriveWords (clusterConfig win).1 (clusterConfig win).2 }) := by
  simp only [exec, execClublend, State.withWindow_of_lt s _ hw, if_pos hclass]

/-! ## The range of a port (43 R260, R271) -/

theorem usedSlots_eq_startOf (h : CountsSound s) : usedSlots s = startOf s.ports s.profile.nport := by
  unfold usedSlots startOf
  congr 1
  exact List.map_congr_left fun q hq => (h q (List.mem_range.mp hq)).1

theorem usedSlots_le_nmixer (hs : AssignmentSound s) : usedSlots s ≤ s.profile.nmixer := by
  obtain ⟨hc, hmasks, hcounts, -⟩ := hs
  rw [usedSlots_eq_startOf hcounts, Profile.nmixer_eq_nwin hc]
  exact startOf_le hmasks le_rfl

/-- The range of every port lies below the slots above all ranges. -/
theorem range_le_usedSlots (h : CountsSound s) {P : Nat} (hP : P < s.profile.nport) :
    (s.port P).start.toNat + (s.port P).wcnt.toNat ≤ usedSlots s := by
  obtain ⟨hwcnt, hstart⟩ := h P hP
  rw [usedSlots_eq_startOf h, hwcnt, hstart]
  exact startOf_add_windowCount_le_startOf s.ports hP

/-! ## The slots after BLEND -/

variable {P m : Nat}

/-- A slot of a layer of `P` holds the words of its stage (43 R260). -/
theorem blend_slot_of_stage (hs : AssignmentSound s) (hP : P < s.profile.nport)
    (hlo : (s.port P).start.toNat ≤ m) (hhi : m < (s.port P).start.toNat + (s.port P).nrLayers.toNat)
    (hfit : (s.port P).nrLayers.toNat ≤ (s.port P).wcnt.toNat) :
    (s.blend P).slot m = (s.slot m).written P (deriveWords (stageConfig s P (m - (s.port P).start.toNat)) false) := by
  obtain ⟨hc, -, hcounts, -⟩ := id hs
  have hrange := range_le_usedSlots hcounts hP
  have hused := usedSlots_le_nmixer hs
  have h8 := Profile.nwin_le_eight hc
  have hmixer := Profile.nmixer_eq_nwin hc
  rw [blend_slot s P m hrange, if_neg (by omega), if_pos (by omega)]

/-- A slot of `P`'s range above its top layer, or above all ranges, holds the pass-through words (43 R268). -/
theorem blend_slot_of_unused (hc : s.profile.WellFormed) (hcounts : CountsSound s) (hP : P < s.profile.nport)
    (hm : m < s.profile.nmixer)
    (h : ((s.port P).start.toNat + (s.port P).nrLayers.toNat ≤ m ∧
      m < (s.port P).start.toNat + (s.port P).wcnt.toNat) ∨ usedSlots s ≤ m) :
    (s.blend P).slot m = (s.slot m).written P (deriveWords passThrough false) := by
  have h8 := Profile.nwin_le_eight hc
  have hmixer := Profile.nmixer_eq_nwin hc
  rw [blend_slot s P m (range_le_usedSlots hcounts hP), if_pos (by omega)]

/-- Any other slot stays (43 R269). -/
theorem blend_slot_of_not_owned (hcounts : CountsSound s) (hP : P < s.profile.nport)
    (hfit : (s.port P).nrLayers.toNat ≤ (s.port P).wcnt.toNat)
    (h : ¬ (((s.port P).start.toNat ≤ m ∧ m < (s.port P).start.toNat + (s.port P).wcnt.toNat) ∨
      (usedSlots s ≤ m ∧ m < s.profile.nmixer))) :
    (s.blend P).slot m = s.slot m := by
  rw [blend_slot s P m (range_le_usedSlots hcounts hP), if_neg (by omega), if_neg (by omega)]

/-- Every slot of `P`'s range, and every slot above all ranges, is written for `P` (43 R269). -/
theorem blend_slot_of_owned (hs : AssignmentSound s) (hP : P < s.profile.nport)
    (hfit : (s.port P).nrLayers.toNat ≤ (s.port P).wcnt.toNat) (hm : m < s.profile.nmixer)
    (h : ((s.port P).start.toNat ≤ m ∧ m < (s.port P).start.toNat + (s.port P).wcnt.toNat) ∨ usedSlots s ≤ m) :
    ∃ words, (s.blend P).slot m = (s.slot m).written P words := by
  by_cases hstage : (s.port P).start.toNat ≤ m ∧ m < (s.port P).start.toNat + (s.port P).nrLayers.toNat
  · exact ⟨_, blend_slot_of_stage hs hP hstage.1 hstage.2 hfit⟩
  · obtain ⟨hc, -, hcounts, -⟩ := hs
    exact ⟨_, blend_slot_of_unused hc hcounts hP hm (by omega)⟩

/-! ## The record of a stage -/

/-- The bottom-layer-alpha case, where the window on the bottom layer is known (43 R265). -/
theorem bottomAlpha_eq_true_iff {b : Nat} (hb : windowOn s (s.port P).start.toNat = b)
    (hn : 1 ≤ (s.port P).nrLayers.toNat) :
    bottomAlpha s P = true ↔ classOf s.profile b ≠ .cluster ∧ (s.win b).glbAlpha ≠ 0xFF := by
  subst hb
  simp [bottomAlpha, hn]

/-- The record of a stage, where the windows on its layer and on the bottom layer are known (43 R260 to R267). -/
theorem stageConfig_eq {z w b : Nat} (hz : z < (s.port P).nrLayers.toNat)
    (hw : windowOn s ((s.port P).start.toNat + z) = w) (hb : windowOn s (s.port P).start.toNat = b) :
    stageConfig s P z =
      if z = 0 then
        { srcPremulti := (s.win w).premulti, dstPremulti := true, srcPixEn := false, dstPixEn := true
          srcGlb := 0xFF, dstGlb := 0xFF }
      else if z = 1 ∧ classOf s.profile b ≠ .cluster ∧ (s.win b).glbAlpha ≠ 0xFF then
        { srcPremulti := (s.win w).premulti, dstPremulti := false, srcPixEn := (s.win w).pixAlpha
          dstPixEn := true, srcGlb := (s.win w).glbAlpha, dstGlb := (s.win b).glbAlpha }
      else if classOf s.profile w = .cluster then
        { srcPremulti := (s.win w).premulti, dstPremulti := true, srcPixEn := true, dstPixEn := true
          srcGlb := 0xFF, dstGlb := 0xFF }
      else
        { srcPremulti := (s.win w).premulti, dstPremulti := true, srcPixEn := (s.win w).pixAlpha
          dstPixEn := true, srcGlb := (s.win w).glbAlpha, dstGlb := 0xFF } := by
  simp only [stageConfig, hw, hb, bottomAlpha_eq_true_iff hb (Nat.one_le_of_lt hz)]

end

/-! ## The record inside a cluster (43 R275) -/

section

variable {win : Window}

theorem clusterConfig_of_sub_off (h : win.sub.en = false) :
    clusterConfig win =
      ({ srcPremulti := false, dstPremulti := false, srcPixEn := false, dstPixEn := true
         srcGlb := 0x00, dstGlb := win.glbAlpha }, false) := by
  simp [clusterConfig, h]

theorem clusterConfig_of_sub_above (hen : ¬ win.sub.en = false) (h : win.sub.below = false) :
    clusterConfig win =
      ({ srcPremulti := win.sub.premulti, dstPremulti := false, srcPixEn := win.sub.pixAlpha, dstPixEn := true
         srcGlb := win.sub.glbAlpha, dstGlb := win.glbAlpha }, false) := by
  simp [clusterConfig, hen, h]

theorem clusterConfig_of_sub_below (hen : ¬ win.sub.en = false) (h : ¬ win.sub.below = false) :
    clusterConfig win =
      ({ srcPremulti := win.premulti, dstPremulti := false, srcPixEn := win.pixAlpha, dstPixEn := true
         srcGlb := win.glbAlpha, dstGlb := win.sub.glbAlpha }, true) := by
  simp [clusterConfig, hen, h]

end

/-! ## The statements -/

/-- Settles O33: each word is a packed record, and a field of the layout is the record's. -/
theorem deriveFillsTheFields : Obligations.DeriveFillsTheFields := by
  intro a swap words mode
  have hmode : blendMode a.srcPixEn (a.srcGlb != 0xFF) = mode := blendMode_eq _ _
  refine ⟨?_, ?_, ?_, ?_⟩
  · obtain ⟨htop, hglb, hgap, hswap, hen, hfactor, hcal, hblend, hgap1, hcolor⟩ :=
      (packControl_eq_iff _ words.srcColor).mp rfl
    rw [hmode] at hfactor hblend hcolor
    exact ⟨hcolor.trans (ite_false_eq_bne_and _ _), hgap1, hblend, hcal, hfactor, hen, hswap, hgap, hglb, htop⟩
  · obtain ⟨htop, hglb, -, -, -, hfactor, -, -, -, hcolor⟩ := (packControl_eq_iff _ words.dstColor).mp rfl
    exact ⟨hcolor, packControl_modes_zero rfl rfl, hfactor, packControl_enables_zero rfl rfl, hglb, htop⟩
  · obtain ⟨-, -, -, -, -, hfactor, hcal, hblend, -⟩ := (packControl_eq_iff _ words.srcAlpha).mp rfl
    exact ⟨packControl_low_zero rfl, hblend.trans hmode, hcal, hfactor, packControl_high_zero rfl rfl rfl⟩
  · obtain ⟨-, -, -, -, -, hfactor, hcal, hblend, -⟩ := (packControl_eq_iff _ words.dstAlpha).mp rfl
    refine ⟨packControl_low_zero rfl, hblend.trans ?_, hcal, hfactor, packControl_high_zero rfl rfl rfl⟩
    by_cases h : a.dstGlb = 0xFF <;> simp [h]

/-- Settles O35: the slots by their place, and the range by the invariant. -/
theorem blendOwnsItsSlots : Obligations.BlendOwnsItsSlots := by
  intro s p hs hp hchg base n c total
  obtain ⟨hc, -, hcounts, -, hranges, -⟩ := id hs
  have hfit : n ≤ c := hranges p.toNat hp hchg
  refine ⟨hfit, range_le_usedSlots hcounts hp, usedSlots_le_nmixer hs, _, exec_blend_of_not_rangeChg hp hchg,
    fun m hm h => ?_, fun m hm h => ?_, fun m h => blend_slot_of_not_owned hcounts hp hfit h, rfl⟩
  · obtain ⟨words, hwords⟩ := blend_slot_of_owned hs hp hfit hm h
    have hp4 := hp.trans_le (Profile.nport_le_four hc)
    rw [hwords, MixSlot.written_owner, BitVec.toNat_ofNat, Nat.mod_eq_of_lt hp4]
    exact ⟨rfl, rfl, rfl⟩
  · rw [blend_slot_of_unused hc hcounts hp hm h, MixSlot.written_words, passThrough_words]

/-- Settles O36: a layer's slot holds the words of the record of its stage. -/
theorem blendBuildsStages : Obligations.BlendBuildsStages := by
  intro s p hs hp hchg
  obtain ⟨hc, -, -, -, hranges, -⟩ := id hs
  refine ⟨decode_of_encode rfl (formatX_eq_append .blend p), _, exec_blend_of_not_rangeChg hp hchg,
    fun z hz w hw b hb hlayer hbottom => ?_⟩
  rw [blend_slot_of_stage hs hp (Nat.le_add_right _ z) (Nat.add_lt_add_left hz _) (hranges p.toNat hp hchg),
    MixSlot.written_words, Nat.add_sub_cancel_left,
    stageConfig_eq hz (windowOn_spec hc hw hlayer) (windowOn_spec hc hb hbottom)]

/-- Settles O34: DERIVE does not write the record it reads. -/
theorem deriveWritesResult : Obligations.DeriveWritesResult :=
  ⟨decode_of_encode rfl rfl, fun s => ⟨_, exec_derive s, rfl, rfl, exec_derive _⟩⟩

/-- Settles O37: CLUBLEND is one window update with the record of its case. -/
theorem clublendBuildsInnerStage : Obligations.ClublendBuildsInnerStage := by
  intro s w hc
  refine ⟨decode_of_encode rfl (formatX_eq_append .clublend w), fun hw hclass => ?_⟩
  obtain ⟨hself, hothers, hrest⟩ := s.modWin_windowOnly (w := w.toNat) (fun win =>
    { win with clu := deriveWords (clusterConfig win).1 (clusterConfig win).2 })
    (hw.trans_le (Profile.nwin_le_eight hc))
  refine ⟨_, exec_clublend_of_cluster hw hclass, hself.trans ?_, hothers, hrest⟩
  split
  · next hoff => simp only [clusterConfig_of_sub_off hoff]
  · next hen =>
    split
    · next habove => simp only [clusterConfig_of_sub_above hen habove]
    · next hbelow => simp only [clusterConfig_of_sub_below hen hbelow]

end Sys2Proof.Machine
end

section
/-! SUPPORT. The commands of the commit arbiter PENDBITS, CFGDONE, FSWAIT, STANDBY and ENABLE (44_commit.md R290 to R315). -/

namespace Sys2Proof.Machine

/-! ## The words: the zero bits of format X before the flag and with it, written as one field (30 R114) -/

theorem formatX_reg_eq_append (op : Op) (r : RegNum) (idx : Index) :
    formatX op r false idx = op.code ++ r ++ 0#14 ++ idx :=
  congrArg (· ++ idx) (BitVec.append_assoc (x₁ := op.code ++ r) (x₂ := 0#13) (x₃ := BitVec.ofBool false))

theorem formatX_flag_eq_append (op : Op) (c : Bool) (idx : Index) :
    formatX op 0 c idx = op.code ++ 0#17 ++ BitVec.ofBool c ++ idx :=
  congrArg (· ++ BitVec.ofBool c ++ idx) (BitVec.append_assoc (x₁ := op.code) (x₂ := 0#4) (x₃ := 0#13))

/-! ## One and two pending bits -/

theorem popcount_bit {o : Nat} (h : o < 4) : popcount (bit 4 o) = 1 := by
  revert o; decide

theorem lowest_bit {o : Nat} (h : o < 4) : lowest (bit 4 o) = o := by
  revert o; decide

theorem setWidth_bit {o : Nat} (h : o < 4) : (bit 4 o).setWidth 32 = bit 32 o := by
  revert o; decide

/-- Two bits: how many they are, the lower one, and what is left without it. -/
theorem bit_or_bit_spec : ∀ o2 < 4, ∀ o1 < o2,
    popcount (bit 4 o1 ||| bit 4 o2) = 2 ∧ lowest (bit 4 o1 ||| bit 4 o2) = o1 ∧
      (bit 4 o1 ||| bit 4 o2) &&& ~~~(bit 4 o1) = bit 4 o2 := by
  decide

theorem getLsbD_bit_self {n o : Nat} (h : o < n) : (bit n o).getLsbD o = true := by
  simp [getLsbD_bit, h]

/-! ## The times of PENDBITS (44 R292, R294, R295) -/

theorem inLastEighth_iff (pt : Port) : inLastEighth pt = true ↔ pt.vtotal.toNat * 7 / 8 < scanCount pt := by
  rw [inLastEighth, decide_eq_true_iff, Nat.shiftRight_eq_div_pow]

theorem leftUs_eq (pt : Port) :
    leftUs pt = pt.htotal.toNat * (pt.vtotal.toNat - scanCount pt) * 1000 / pt.pclk.toNat := by
  rw [leftUs, linesLeft_eq]

theorem safeUs_eq (pt : Port) : safeUs pt = pt.htotal.toNat * pt.vtotal.toNat * 1000 / pt.pclk.toNat / 8 := by
  rw [safeUs, frameUs, Nat.shiftRight_eq_div_pow]

theorem marginPort_of_lt {pt1 pt2 : Port} (o1 o2 : Nat) (h : leftUs pt2 < leftUs pt1) :
    marginPort pt1 pt2 o1 o2 = if safeUs pt1 < leftUs pt1 - leftUs pt2 then o2 else o1 := if_pos h

theorem marginPort_of_le {pt1 pt2 : Port} (o1 o2 : Nat) (h : leftUs pt1 ≤ leftUs pt2) :
    marginPort pt1 pt2 o1 o2 = if safeUs pt2 < leftUs pt2 - leftUs pt1 then o1 else o2 := if_neg (Nat.not_lt.mpr h)

/-! ## PENDBITS, by the number of other pending ports (44 R290, R291) -/

section

variable {s : State} (rd : RegNum) {P : Nat}

theorem exec_pendbits_of_lt {p : Index} (hp : p.toNat < s.profile.nport) :
    exec (.pendbits rd p) s = .next (s.pendbits rd p.toNat) := congrArg _ (s.withPort_of_lt _ hp)

theorem pendbits_of_none (h : s.profile.sharedLatch = false ∨ otherPending s P = 0) :
    s.pendbits rd P = s.setReg rd 0 := by
  unfold State.pendbits
  cases hlatch : s.profile.sharedLatch with
  | false => rfl
  | true =>
    have hnone : otherPending s P = 0 := h.resolve_left (by simp [hlatch])
    simp [hnone]

theorem pendbits_of_one {o : Nat} (hlatch : s.profile.sharedLatch = true) (ho : o < 4)
    (h : otherPending s P = bit 4 o) :
    s.pendbits rd P =
      if inLastEighth (s.port o) then s.hold .done o (.pendbits rd P) else s.setReg rd (bit 32 o) := by
  have hne : bit 4 o ≠ 0 := ne_of_apply_ne popcount (by rw [popcount_bit ho]; decide)
  simp only [State.pendbits, hlatch, h, hne, popcount_bit ho, lowest_bit ho, setWidth_bit ho, Bool.not_true,
    Bool.false_eq_true, if_false, if_true]

theorem pendbits_of_two {o1 o2 : Nat} (hlatch : s.profile.sharedLatch = true) (hlt : o1 < o2) (ho2 : o2 < 4)
    (h : otherPending s P = bit 4 o1 ||| bit 4 o2) :
    s.pendbits rd P =
      if (s.port o1).pclk = 0 ∨ (s.port o2).pclk = 0 then s.raise .timing
      else if safeUs (s.port o1) < leftUs (s.port o1) ∧ safeUs (s.port o2) < leftUs (s.port o2) then
        s.setReg rd (bit 32 o1 ||| bit 32 o2)
      else s.hold .done (marginPort (s.port o1) (s.port o2) o1 o2) (.pendbits rd P) := by
  obtain ⟨hcount, hlow, hhigh⟩ := bit_or_bit_spec o2 ho2 o1 hlt
  have hne : bit 4 o1 ||| bit 4 o2 ≠ 0 := ne_of_apply_ne popcount (by rw [hcount]; decide)
  have hone : popcount (bit 4 o1 ||| bit 4 o2) ≠ 1 := by rw [hcount]; decide
  simp only [State.pendbits, hlatch, h, hne, hone, hlow, hhigh, lowest_bit ho2, BitVec.setWidth_or, setWidth_bit ho2,
    setWidth_bit (hlt.trans ho2), Bool.not_true, Bool.false_eq_true, if_false, gt_iff_lt]

/-- A pending port is waited for, and nothing but the wait changes. -/
theorem hold_done_of_otherPending {q : Nat} (rest : Resume) (h : (otherPending s P).getLsbD q = true) :
    s.hold .done q rest = { s with wait := .waiting .done q rest } := by
  rw [otherPending, BitVec.getLsbD_and, Bool.and_eq_true] at h
  exact s.hold_of_not_condition rest (by rw [waitCondition_done, h.1]; rfl)

end

/-! ## CFGDONE (44 R300 to R302) -/

/-- The operand of CFGDONE holds bits of existing ports only. -/
theorem ushiftRight_eq_zero_iff (v : Word) (n : Nat) : v >>> n = 0 ↔ v.toNat < 2 ^ n := by
  rw [← BitVec.toNat_inj, BitVec.toNat_ushiftRight, Nat.shiftRight_eq_div_pow]
  exact Nat.div_eq_zero_iff_lt (Nat.two_pow_pos n)

theorem commitPend_shared (pend v : BitVec 4) (P : Nat) : commitPend true pend P v = bit 4 P ||| v := rfl

/-- Of independent bits a masked write of one bit sets that bit. -/
theorem commitPend_independent (pend v : BitVec 4) (P : Nat) : commitPend false pend P v = pend ||| bit 4 P := by
  unfold commitPend maskedWrite
  ext i hi
  cases h : (bit 4 P)[i] <;> simp [h]

section

variable {s : State}

theorem exec_cfgdone_of_lt {rs : RegNum} {p : Index} (hp : p.toNat < s.profile.nport)
    (hv : (s.reg rs).toNat < 2 ^ s.profile.nport) :
    exec (.cfgdone rs p) s = .next
      { s with
        pend := commitPend s.profile.sharedLatch s.pend p.toNat ((s.reg rs).extractLsb' 0 4)
        glbEn := true } := by
  have hzero : s.reg rs >>> s.profile.nport = 0 := (ushiftRight_eq_zero_iff _ _).mpr hv
  simp only [exec, execCfgdone, State.withPort_of_lt s _ hp, hzero, ne_eq, not_true, if_false]

theorem exec_cfgdone_of_le {rs : RegNum} {p : Index} (hp : p.toNat < s.profile.nport)
    (hv : 2 ^ s.profile.nport ≤ (s.reg rs).toNat) :
    exec (.cfgdone rs p) s = .next (commandFault s 0b000010 2) := by
  have hbad : s.reg rs >>> s.profile.nport ≠ 0 := mt (ushiftRight_eq_zero_iff _ _).mp (Nat.not_lt.mpr hv)
  simp only [exec, execCfgdone, State.withPort_of_lt s _ hp, if_pos hbad, State.raise_operand]

/-! ## FSWAIT (44 R305) -/

variable {p : Index}

theorem exec_fswait_of_unchanged (hp : p.toNat < s.profile.nport) (h : (s.port p.toNat).lselChg = false) :
    exec (.fswait true p) s = .next s := by
  simp only [exec, execFswait, State.withPort_of_lt s _ hp, h, Bool.not_false, Bool.and_self, if_true]

theorem exec_fswait_of_hold {c : Bool} (hp : p.toNat < s.profile.nport)
    (h : ¬ (c = true ∧ (s.port p.toNat).lselChg = false)) :
    exec (.fswait c p) s = .next (s.hold .done p.toNat (.fswait c p.toNat)) := by
  have hgo : ¬ (c && !(s.port p.toNat).lselChg) = true := by simpa using h
  simp only [exec, execFswait, State.withPort_of_lt s _ hp, if_neg hgo]

/-! ## STANDBY (44 R310) -/

theorem State.modPort_modPort (s : State) (p : Nat) (f g : Port → Port) :
    (s.modPort p f).modPort p g = s.modPort p (g ∘ f) := by
  have hports : modAt (modAt s.ports p f) p g = modAt s.ports p (g ∘ f) := by
    apply bank_ext
    intro q hq
    simp only [getAt_modAt]
    split
    · next h => simp [h]
    · rfl
  simp only [State.modPort, hports]

/-- A port that is stopped, or reports dsp-hold already, is not waited for. -/
theorem exec_standby_of_held (hp : p.toNat < s.profile.nport) (hp4 : p.toNat < 4)
    (h : (s.port p.toNat).run = false ∨ (s.port p.toNat).dspHold = true) :
    exec (.standby p) s = .next (s.modPort p.toNat fun pt => { pt with stby := true, dspHold := false }) := by
  simp only [exec, execStandby, State.withPort_of_lt s _ hp]
  split
  · next hrun =>
    have hheld : (s.port p.toNat).dspHold = true := h.resolve_left (by simp [hrun])
    rw [State.hold_of_condition _ _ (by rw [waitCondition_dspHold, State.port_modPort_self s _ hp4]; exact hheld),
      State.finish_standby_true, State.modPort_modPort]
    rfl
  · rw [State.modPort_modPort]
    rfl

theorem exec_standby_of_running (hp : p.toNat < s.profile.nport) (hp4 : p.toNat < 4)
    (hrun : (s.port p.toNat).run = true) (h : (s.port p.toNat).dspHold = false) :
    exec (.standby p) s = .next
      { s.modPort p.toNat fun pt => { pt with stby := true } with
        wait := .waiting .dspHold p.toNat (.standby p.toNat) } := by
  simp only [exec, execStandby, State.withPort_of_lt s _ hp, if_pos hrun]
  rw [State.hold_of_not_condition _ _ (by rw [waitCondition_dspHold, State.port_modPort_self s _ hp4]; exact h)]

/-! ## ENABLE (44 R315) -/

theorem exec_enable_of_timed (hp : p.toNat < s.profile.nport) (hh : (s.port p.toNat).htotal ≠ 0)
    (hv : (s.port p.toNat).vtotal ≠ 0) (hclk : (s.port p.toNat).pclk ≠ 0) :
    exec (.enable p) s = .next (s.modPort p.toNat fun pt =>
      { pt with stby := false, dspHold := false, run := true, vcnt := if pt.run then pt.vcnt else 0 }) := by
  simp only [exec, execEnable, State.withPort_of_lt s _ hp, hh, hv, hclk, or_self, if_false]

theorem exec_enable_of_untimed (hp : p.toNat < s.profile.nport)
    (h : (s.port p.toNat).htotal = 0 ∨ (s.port p.toNat).vtotal = 0 ∨ (s.port p.toNat).pclk = 0) :
    exec (.enable p) s = .next (commandFault s 0b100000 6) := by
  simp only [exec, execEnable, State.withPort_of_lt s _ hp, if_pos h, State.raise_timing]

end

/-! ## The statements -/

/-- Settles O38: PENDBITS is one register write, of 0. -/
theorem pendbitsWithNothingToCarry : Obligations.PendbitsWithNothingToCarry := by
  refine fun s rd p => ⟨decode_of_encode rfl (formatX_reg_eq_append .pendbits rd p), fun hp hnone => ?_⟩
  refine ⟨_, exec_pendbits_of_lt rd hp, ?_⟩
  rw [pendbits_of_none rd hnone]
  exact s.setReg_writesOnly rd 0

/-- Settles O39: the count of the one other port decides between the register write and the wait. -/
theorem pendbitsWithOneOther : Obligations.PendbitsWithOneOther := by
  intro s rd p o hp hlatch ho hone count
  have hothers : otherPending s p.toNat = bit 4 o := hone
  have hiff : inLastEighth (s.port o) = true ↔ (s.port o).vtotal.toNat * 7 / 8 < count := inLastEighth_iff _
  rw [exec_pendbits_of_lt rd hp, pendbits_of_one rd hlatch ho hothers]
  refine ⟨fun hsafe => ?_, fun hlast => ?_⟩
  · rw [if_neg (mt hiff.mp (Nat.not_lt.mpr hsafe))]
    exact ⟨_, rfl, s.setReg_writesOnly rd _⟩
  · rw [if_pos (hiff.mpr hlast), hold_done_of_otherPending _ (hothers ▸ getLsbD_bit_self ho)]

/-- Settles O40: the times of the two other ports decide, and the port waited for is one of the two. -/
theorem pendbitsWithTwoOthers : Obligations.PendbitsWithTwoOthers := by
  intro s rd p o1 o2 hp hlatch hlt ho2 htwo count left safe clocked outside
  have hothers : otherPending s p.toNat = bit 4 o1 ||| bit 4 o2 := htwo
  have hleft (q : Nat) : leftUs (s.port q) = left q := leftUs_eq _
  have hsafe (q : Nat) : safeUs (s.port q) = safe q := safeUs_eq _
  have hclk : (s.port o1).pclk = 0 ∨ (s.port o2).pclk = 0 ↔ ¬ clocked := by
    simp only [clocked, ← not_or, not_not]
  have hmargin : (otherPending s p.toNat).getLsbD (marginPort (s.port o1) (s.port o2) o1 o2) = true := by
    refine getLsbD_marginPort _ _ ?_ ?_ <;> rw [hothers, BitVec.getLsbD_or]
    · rw [getLsbD_bit_self (hlt.trans ho2), Bool.true_or]
    · rw [getLsbD_bit_self ho2, Bool.or_true]
  have hwait := hold_done_of_otherPending (.pendbits rd p.toNat) hmargin
  have hexec := (exec_pendbits_of_lt rd hp).trans (congrArg _ (pendbits_of_two rd hlatch hlt ho2 hothers))
  simp only [hclk, hleft, hsafe, hwait] at hexec
  refine ⟨fun hno => ?_, fun hyes hout => ?_, fun hyes hin hmore => ?_, fun hyes hin hless => ?_⟩
  · rw [hexec, if_pos hno, State.raise_timing]
  · rw [hexec, if_neg (not_not.mpr hyes), if_pos hout]
    exact ⟨_, rfl, s.setReg_writesOnly rd _⟩
  · rw [hexec, if_neg (not_not.mpr hyes), if_neg hin, marginPort_of_lt o1 o2 (by rwa [hleft, hleft]), hsafe,
      hleft, hleft]
  · rw [hexec, if_neg (not_not.mpr hyes), if_neg hin, marginPort_of_le o1 o2 (by rwa [hleft, hleft]), hsafe,
      hleft, hleft]

/-- Settles O41: the operand is checked, and the latch is written by its kind. -/
theorem cfgdoneCommits : Obligations.CfgdoneCommits := by
  refine fun s rs p _ => ⟨decode_of_encode rfl (formatX_reg_eq_append .cfgdone rs p), fun hp hv hlatch => ?_,
    fun hp hv hlatch => ?_, exec_cfgdone_of_le, exec_of_port_out_of_range rfl⟩
  · rw [exec_cfgdone_of_lt hp hv, hlatch, commitPend_shared]
    rfl
  · rw [exec_cfgdone_of_lt hp hv, hlatch, commitPend_independent]
    rfl

/-- Settles O42: FSWAIT.C without `LSEL_CHG` ends, and any other FSWAIT is a wait for the pending bit. -/
theorem fswaitEndsOrWaits : Obligations.FswaitEndsOrWaits := by
  refine fun s c p hc => ⟨decode_of_encode rfl (formatX_flag_eq_append .fswait c p), fun hp => ?_⟩
  have hp4 : p.toNat < 4 := hp.trans_le (Profile.nport_le_four hc)
  have hdone (h : s.pend.getLsbD p.toNat = false) : waitCondition s .done p.toNat = true := by
    rw [waitCondition_done, h]
    rfl
  refine ⟨?_, ?_, ?_, fun hgo hpend => ?_⟩
  · rintro ⟨rfl, hsel⟩
    exact exec_fswait_of_unchanged hp hsel
  · rintro rfl hpend
    rw [exec_fswait_of_hold hp (by simp), s.hold_of_condition _ (hdone hpend), State.finish_fswait_plain]
  · rintro rfl hpend
    by_cases hsel : (s.port p.toNat).lselChg = false
    · refine ⟨s, exec_fswait_of_unchanged hp hsel, ?_, fun _ _ => rfl, rfl⟩
      rw [← hsel]
    · rw [exec_fswait_of_hold hp (by simpa using hsel), s.hold_of_condition _ (hdone hpend),
        State.finish_fswait_true]
      exact ⟨_, rfl, s.modPort_portOnly _ hp4⟩
  · have hblocked : waitCondition s .done p.toNat = false := by
      rw [waitCondition_done, hpend]
      rfl
    rw [exec_fswait_of_hold hp hgo, s.hold_of_not_condition _ hblocked]

/-- Settles O43: STANDBY is one port update, and a wait for a running port. -/
theorem standbyStopsOrWaits : Obligations.StandbyStopsOrWaits := by
  refine fun s p hc => ⟨decode_of_encode rfl (formatX_eq_append .standby p), fun hp => ?_⟩
  have hp4 : p.toNat < 4 := hp.trans_le (Profile.nport_le_four hc)
  refine ⟨fun hheld => ⟨_, exec_standby_of_held hp hp4 hheld, s.modPort_portOnly _ hp4⟩, fun hrun hhold => ?_⟩
  exact ⟨_, exec_standby_of_running hp hp4 hrun hhold, rfl, s.modPort_portOnly _ hp4⟩

/-- Settles O44: ENABLE is one port update when the timing is legal. -/
theorem enableStartsPort : Obligations.EnableStartsPort := by
  refine fun s p hc => ⟨decode_of_encode rfl (formatX_eq_append .enable p), fun hp hh hv hclk => ?_,
    exec_enable_of_untimed, exec_of_port_out_of_range rfl⟩
  exact ⟨_, exec_enable_of_timed hp hh hv hclk, s.modPort_portOnly _ (hp.trans_le (Profile.nport_le_four hc))⟩

end Sys2Proof.Machine
end

section
/-! SUPPORT. The line tick of a running port and its frame boundary (60_exceptions.md R351, 44_commit.md R320). -/

namespace Sys2Proof.Machine

/-- Clearing one bit of a mask leaves every other bit. -/
theorem getLsbD_and_not_bit {n : Nat} (v : BitVec n) (i j : Nat) :
    (v &&& ~~~(bit n i)).getLsbD j = (v.getLsbD j && decide (j ≠ i)) := by
  rw [BitVec.getLsbD_and, BitVec.getLsbD_not, getLsbD_bit]
  by_cases hj : j < n
  · simp [hj]
  · simp [BitVec.getLsbD_of_ge v j (Nat.le_of_not_lt hj)]

/-! ## The tick -/

theorem step_of_lineTick {s : State} {p : Nat} (hc : s.profile.WellFormed) (ha : nextAgent s = .lineTick p) :
    step s = .next (s.turned.lineTick p) := by
  unfold step
  rw [if_pos hc, ha]
  rfl

section

variable {s : State} {p : Nat}

theorem lineTick_of_lt (hp : p < s.profile.nport) (hrun : (s.port p).run = true)
    (h : (s.port p).vcnt.toNat + 1 < (s.port p).vtotal.toNat) :
    s.lineTick p = s.modPort p fun pt => { pt with vcnt := pt.vcnt + 1 } := by
  rcases lineTick_cases s p with ⟨hoff, -⟩ | ⟨-, -, -, htick⟩ | ⟨-, -, hwrap, -⟩
  · exact absurd ⟨hp, hrun⟩ hoff
  · exact htick
  · omega

theorem lineTick_of_le (hp : p < s.profile.nport) (hrun : (s.port p).run = true)
    (h : (s.port p).vtotal.toNat ≤ (s.port p).vcnt.toNat + 1) :
    s.lineTick p = (s.modPort p fun pt => { pt with vcnt := 0 }).boundary p := by
  rcases lineTick_cases s p with ⟨hoff, -⟩ | ⟨-, -, hbelow, -⟩ | ⟨-, -, -, htick⟩
  · exact absurd ⟨hp, hrun⟩ hoff
  · omega
  · exact htick

/-! ## The copies -/

theorem latch_slot_eq (hc : s.profile.WellFormed) {m : Nat} (hm : m < s.profile.nmixer) :
    (s.latch p).slot m =
      if (s.slot m).valid = true ∧ (s.slot m).owner.toNat = p then { s.slot m with act := (s.slot m).words }
      else s.slot m := by
  have hm8 : m < 8 := hm.trans_le ((Profile.nmixer_eq_nwin hc).trans_le (Profile.nwin_le_eight hc))
  rw [latch_slot, if_pos ⟨hm, hm8⟩, latchSlot]
  simp only [Bool.and_eq_true, beq_iff_eq]

theorem latch_win_eq (hc : s.profile.WellFormed) (hp : p < s.profile.nport) {w : Nat} (hw : w < s.profile.nwin) :
    (s.latch p).win w =
      if (s.win w).vpMask = 1#4 <<< p then
        { s.win w with
          sclAct := (s.win w).scl
          cluAct := if classOf s.profile w = .cluster then (s.win w).clu else (s.win w).cluAct }
      else s.win w := by
  rw [latch_win, if_pos ⟨hw, hw.trans_le (Profile.nwin_le_eight hc)⟩, latchWindow,
    namesPort_of_lt (hp.trans_le (Profile.nport_le_four hc))]
  simp only [decide_eq_true_eq]

end

/-! ## The statement -/

/-- Settles O45: below the wrap and without a commit a tick is one port update; with a commit the boundary copies. -/
theorem lineTickCountsAndLatches : Obligations.LineTickCountsAndLatches := by
  intro s p hc ha hp hrun
  have hp4 : p < 4 := hp.trans_le (Profile.nport_le_four hc)
  rw [step_of_lineTick hc ha]
  refine ⟨fun hbelow => ?_, fun hwrap hpend => ?_, fun hwrap hpend => ?_⟩
  · rw [lineTick_of_lt (s := s.turned) hp hrun hbelow]
    obtain ⟨hself, hothers, hrest⟩ :=
      s.turned.modPort_portOnly (fun pt => { pt with vcnt := pt.vcnt + 1 }) hp4
    have hcount : ((s.port p).vcnt + 1).toNat = (s.port p).vcnt.toNat + 1 :=
      BitVec.toNat_add_of_lt (hbelow.trans (s.port p).vtotal.isLt)
    refine ⟨_, rfl, ?_, ?_, hothers, hrest⟩ <;> rw [hself]
    · exact hcount
    · rfl
  · rw [lineTick_of_le (s := s.turned) hp hrun hwrap, boundary_of_not_pending (s.turned.modPort p _) hpend]
    exact ⟨_, rfl, s.turned.modPort_portOnly _ hp4⟩
  · rw [lineTick_of_le (s := s.turned) hp hrun hwrap, boundary_of_pending (s.turned.modPort p _) hpend]
    obtain ⟨hself, hothers, -⟩ := s.turned.modPort_portOnly (fun pt => { pt with vcnt := 0 }) hp4
    exact ⟨_, rfl, hself, hothers, rfl, rfl, fun m hm => latch_slot_eq (s := s.turned.modPort p _) hc hm,
      fun w hw => latch_win_eq (s := s.turned.modPort p _) hc hp hw, fun q => getLsbD_and_not_bit s.pend p q, rfl⟩

end Sys2Proof.Machine
end

section
/-! SUPPORT. The record of the first fault (60_exceptions.md R341 to R343): a command raises one fault and does nothing else, or
leaves `FAULT`, `FAULTINFO` and `SEQ` alone. -/

namespace Sys2Proof.Machine

/-- `FAULT`, `FAULTINFO` and `SEQ` are those of `s`. -/
def SameRecord (s t : State) : Prop := t.fault = s.fault ∧ t.faultInfo = s.faultInfo ∧ t.seq = s.seq

/-- A command has raised one fault and changed nothing else, or left the record and `SEQ` alone. -/
def FaultOrSameRecord (s t : State) : Prop := (∃ f, t = s.raise f) ∨ SameRecord s t

/-! ## The shared operations of the commands -/

section

variable {s t : State}

theorem SameRecord.refl (s : State) : SameRecord s s := ⟨rfl, rfl, rfl⟩

theorem SameRecord.finish (s : State) (b : Bool) (rest : Resume) : SameRecord s (s.finish b rest) := by
  rcases s.finish_cases b rest with h | ⟨rd, v, h⟩ | ⟨p, h⟩ | ⟨p, h⟩ <;> rw [h] <;> exact .refl s

theorem SameRecord.hold (s : State) (kind : WaitKind) (q : Nat) (rest : Resume) : SameRecord s (s.hold kind q rest) := by
  cases h : waitCondition s kind q with
  | true => rw [s.hold_of_condition rest h]; exact .finish s true rest
  | false => rw [s.hold_of_not_condition rest h]; exact .refl s

theorem SameRecord.of_memWrite {addr : Offset} {v : Word} (h : memWrite s addr v = some t) : SameRecord s t := by
  obtain ⟨name, -, -, rfl⟩ := (memWrite_eq_some_iff s addr v t).mp h
  rcases writeReg_cases s name v with h | ⟨i, h⟩ | h | h | ⟨p, r, h⟩ | ⟨w, r, h⟩ <;> rw [h] <;> exact .refl s

namespace FaultOrSameRecord

theorem raise (s : State) (f : HardFault) : FaultOrSameRecord s (s.raise f) := .inl ⟨f, rfl⟩

theorem ite {p : Prop} [Decidable p] {a b : State} (ha : FaultOrSameRecord s a) (hb : FaultOrSameRecord s b) :
    FaultOrSameRecord s (if p then a else b) := by
  split
  · exact ha
  · exact hb

/-- A port command with an index out of range raises `BADINDEX`. -/
theorem withPort {idx : Index} {run : Nat → State} (h : ∀ P, FaultOrSameRecord s (run P)) :
    FaultOrSameRecord s (s.withPort idx run) := ite (h _) (raise s .badIndex)

/-- A window command with an index out of range raises `BADINDEX`. -/
theorem withWindow {idx : Index} {run : Nat → State} (h : ∀ w, FaultOrSameRecord s (run w)) :
    FaultOrSameRecord s (s.withWindow idx run) := ite (h _) (raise s .badIndex)

theorem pendbits (s : State) (rd : RegNum) (P : Nat) : FaultOrSameRecord s (s.pendbits rd P) := by
  rcases pendbits_cases s rd P with h | h | h | ⟨q, h⟩ <;> rw [h]
  · exact .inr (.refl s)
  · exact .inr (.refl s)
  · exact raise s .timing
  · exact .inr (.hold s .done q _)

/-! ## The commands -/

theorem of_exec {i : Instr} (h : exec i s = .next t) : FaultOrSameRecord s t := by
  cases i with
  | nop | li rd imm | lih rd imm | sclmode rd rs1 rs2 | derive =>
    obtain rfl := Host.Outcome.next.inj h
    exact .inr (.refl s)
  | ldr rd addr =>
    simp only [exec, execLdr] at h
    split at h <;> obtain rfl := Host.Outcome.next.inj h
    · exact raise s .badAddr
    · exact .inr (.refl s)
  | str rs addr =>
    simp only [exec, execStr] at h
    split at h <;> obtain rfl := Host.Outcome.next.inj h
    · exact raise s .badAddr
    · next hm => exact .inr (.of_memWrite hm)
  | prescl rd rs1 rs2 avg =>
    simp only [exec, execPrescl] at h
    split at h <;> obtain rfl := Host.Outcome.next.inj h
    · exact .inr (.refl s)
    · exact raise s .operand
  | sclfac rd rs1 rs2 mode bil =>
    simp only [exec, execSclfac] at h
    split at h
    · obtain rfl := Host.Outcome.next.inj h
      exact raise s .illCmd
    · split at h <;> obtain rfl := Host.Outcome.next.inj h
      · exact .inr (.refl s)
      · exact raise s .operand
  | sclauto rd rs1 rs2 bil =>
    simp only [exec, execSclauto] at h
    split at h <;> obtain rfl := Host.Outcome.next.inj h
    · exact .inr (.refl s)
    · exact raise s .operand
  | chrdim rd rs1 sub =>
    simp only [exec, execChrdim] at h
    split at h <;> obtain rfl := Host.Outcome.next.inj h
    · exact raise s .illCmd
    · exact .inr (.refl s)
  | windis w =>
    obtain rfl := Host.Outcome.next.inj h
    exact withWindow fun _ => .inr (.refl s)
  | assign p =>
    obtain rfl := Host.Outcome.next.inj h
    exact withPort fun _ => ite (.inr (.refl s)) (raise s .badCfg)
  | pmuxwait =>
    obtain rfl := Host.Outcome.next.inj h
    exact .inr (.hold s .pmux 0 .pmuxwait)
  | blend p =>
    obtain rfl := Host.Outcome.next.inj h
    exact withPort fun _ => ite (raise s .badCfg) (.inr (.refl s))
  | clublend w =>
    obtain rfl := Host.Outcome.next.inj h
    exact withWindow fun _ => ite (.inr (.refl s)) (raise s .badIndex)
  | pendbits rd p =>
    obtain rfl := Host.Outcome.next.inj h
    exact withPort (pendbits s rd)
  | cfgdone rs p =>
    obtain rfl := Host.Outcome.next.inj h
    exact withPort fun _ => ite (raise s .operand) (.inr (.refl s))
  | fswait c p =>
    obtain rfl := Host.Outcome.next.inj h
    exact withPort fun P => ite (.inr (.refl s)) (.inr (.hold s .done P _))
  | standby p =>
    obtain rfl := Host.Outcome.next.inj h
    exact withPort fun P => ite (.inr (.hold (s.modPort P _) .dspHold P _)) (.inr (.refl s))
  | enable p =>
    obtain rfl := Host.Outcome.next.inj h
    exact withPort fun _ => ite (raise s .timing) (.inr (.refl s))

theorem of_acceptWord {bits : Word} (h : acceptWord bits s = .next t) : FaultOrSameRecord s.countWord t := by
  rcases acceptWord_cases bits s with ⟨-, -, ha⟩ | ⟨i, -, ha⟩ <;> rw [ha] at h
  · obtain rfl := Host.Outcome.next.inj h
    exact raise _ .illCmd
  · exact of_exec h

end FaultOrSameRecord

end

/-! ## The statement -/

theorem acceptWord_next (bits : Word) (s : State) : ∃ t, acceptWord bits s = .next t := by
  rcases acceptWord_cases bits s with ⟨-, -, ha⟩ | ⟨i, -, ha⟩ <;> rw [ha]
  · exact ⟨_, rfl⟩
  · exact exec_next i _

/-- The code of a fault is one more than the index of its bit (10 R28). -/
theorem HardFault.code_eq (f : HardFault) : f.code = BitVec.ofNat 8 (f.bitIndex + 1) := by cases f <;> rfl

theorem HardFault.bitIndex_lt (f : HardFault) : f.bitIndex < 6 := by cases f <;> decide

/-- Settles O23: a word is counted, and then its command raises one fault or leaves the record alone. -/
theorem faultChangesOnlyTheRecord : Obligations.FaultChangesOnlyTheRecord := by
  intro bits s
  obtain ⟨t, hacc⟩ := acceptWord_next bits s
  rcases FaultOrSameRecord.of_acceptWord hacc with ⟨f, rfl⟩ | ⟨hfault, hinfo, hseq⟩
  · refine .inl ⟨f.bitIndex, f.bitIndex_lt, hacc.trans ?_⟩
    rw [State.raise_eq, f.code_eq]
    rfl
  · exact .inr ⟨t, hacc, hfault, hinfo, hseq⟩

end Sys2Proof.Machine
end

section
/-! SUPPORT. How a wait ends or goes on (60_exceptions.md R350 to R356): the turns of display-hold, the poll timer and the block
itself, and what the other agents' turns leave of a wait. -/

namespace Sys2Proof.Machine

/-! ## The turns -/

theorem step_eq_turn {s : State} {a : Agent} (hc : s.profile.WellFormed) (ha : nextAgent s = a) :
    step s = turn a s.turned := by
  unfold step
  rw [if_pos hc, ha]
  rfl

section

variable {s : State} {p q : Nat} {kind : WaitKind} {rest : Resume}

theorem dspHoldEvent_of_enabled (hp : p < s.profile.nport) (hstby : (s.port p).stby = true) (hrun : (s.port p).run = true) :
    s.dspHoldEvent p = s.modPort p fun pt => { pt with run := false, dspHold := true } := by
  rcases dspHoldEvent_cases s p with ⟨hoff, -⟩ | ⟨-, -, -, hevent⟩
  · exact absurd ⟨hp, hstby, hrun⟩ hoff
  · exact hevent

theorem dspHoldEvent_of_disabled (h : s.profile.nport ≤ p ∨ (s.port p).stby = false ∨ (s.port p).run = false) :
    s.dspHoldEvent p = s := by
  rcases dspHoldEvent_cases s p with ⟨-, hevent⟩ | ⟨hp, hstby, hrun, -⟩
  · exact hevent
  · simp [hp.not_ge, hstby, hrun] at h

theorem lineTick_of_disabled (h : s.profile.nport ≤ p ∨ (s.port p).run = false) : s.lineTick p = s := by
  rcases lineTick_cases s p with ⟨-, htick⟩ | ⟨hp, hrun, -⟩ | ⟨hp, hrun, -⟩
  · exact htick
  · simp [hp.not_ge, hrun] at h
  · simp [hp.not_ge, hrun] at h

theorem timeoutEvent_of_idle (h : s.wait = .idle) : s.timeoutEvent = s := by
  unfold State.timeoutEvent
  rw [h]

theorem resumeEvent_of_idle (h : s.wait = .idle) : s.resumeEvent = s := by
  unfold State.resumeEvent
  rw [h]

theorem timeoutEvent_of_waiting (h : s.wait = .waiting kind q rest) :
    s.timeoutEvent = State.finish { s with wait := .idle, log := s.log ||| logBit kind } false rest := by
  unfold State.timeoutEvent
  rw [h]

theorem resumeEvent_of_condition (h : s.wait = .waiting kind q rest) (hcond : waitCondition s kind q = true) :
    s.resumeEvent = State.finish { s with wait := .idle } true rest := by
  unfold State.resumeEvent
  rw [h]
  exact if_pos hcond

theorem resumeEvent_of_not_condition (h : s.wait = .waiting kind q rest) (hcond : waitCondition s kind q = false) :
    s.resumeEvent = s := by
  unfold State.resumeEvent
  rw [h]
  exact if_neg (Bool.eq_false_iff.mp hcond)

end

/-- Settles O46: the event is enabled, and it updates one port. -/
theorem dspHoldStopsPort : Obligations.DspHoldStopsPort := by
  intro s p hc ha hp hstby hrun
  have hevent := dspHoldEvent_of_enabled (s := s.turned) hp hstby hrun
  exact ⟨_, (step_eq_turn hc ha).trans (congrArg Host.Outcome.next hevent),
    s.turned.modPort_portOnly _ (hp.trans_le (Profile.nport_le_four hc))⟩

/-- Settles O50: an event that is not enabled leaves the block as it is. -/
theorem disabledTurnsPass : Obligations.DisabledTurnsPass := by
  refine fun s p hc => ⟨fun ha h => ?_, fun ha h => ?_, fun ha h => ?_, fun kind q rest ha hwait hcond => ?_⟩
  · exact (step_eq_turn hc ha).trans (congrArg _ (lineTick_of_disabled (s := s.turned) h))
  · exact (step_eq_turn hc ha).trans (congrArg _ (dspHoldEvent_of_disabled (s := s.turned) h))
  · rcases ha with ha | ha
    · exact (step_eq_turn hc ha).trans (congrArg _ (timeoutEvent_of_idle (s := s.turned) h))
    · exact (step_eq_turn hc ha).trans (congrArg _ (resumeEvent_of_idle (s := s.turned) h))
  · exact (step_eq_turn hc ha).trans (congrArg _ (resumeEvent_of_not_condition (s := s.turned) hwait hcond))

/-! ## The end of a wait -/

/-- The three bits of `LOG`, by the kind of the wait (60 R345). -/
theorem logBit_eq (kind : WaitKind) :
    logBit kind = match kind with | .done => 0b001#3 | .pmux => 0b010#3 | .dspHold => 0b100#3 := by
  cases kind <;> rfl

/-- After a timeout only PENDBITS has something left to do (44 R293, R306, R311). -/
theorem State.finish_false_eq_self (s : State) {rest : Resume} (h : ∀ rd p, rest ≠ .pendbits rd p) :
    s.finish false rest = s := by
  cases rest with
  | pendbits rd p => exact absurd rfl (h rd p)
  | pmuxwait => exact s.finish_pmuxwait false
  | fswait c p => exact s.finish_fswait_false c p
  | standby p => exact s.finish_standby_false p

theorem waitCondition_eq_true_iff (s : State) (kind : WaitKind) (q : Nat) :
    waitCondition s kind q = true ↔
      (kind = .done → s.pend.getLsbD q = false) ∧ (kind = .pmux → s.portMuxAct = s.portMux) ∧
        (kind = .dspHold → (s.port q).dspHold = true) := by
  cases kind with
  | done => simp [waitCondition_done]
  | pmux => simp [waitCondition_pmux]
  | dspHold => simp [waitCondition_dspHold]

/-- Settles O47: the rest of the command runs on the state with the wait ended and logged. -/
theorem timeoutEndsWait : Obligations.TimeoutEndsWait := by
  intro s kind q rest hc ha hwait ended
  have hstep : step s = .next (ended.finish false rest) := by
    have hevent := timeoutEvent_of_waiting (s := s.turned) hwait
    rw [logBit_eq] at hevent
    exact (step_eq_turn hc ha).trans (congrArg _ hevent)
  refine ⟨?_, fun hrest => ?_⟩
  · rintro rd p rfl
    exact ⟨_, hstep, ended.setReg_writesOnly rd _⟩
  · rw [hstep, ended.finish_false_eq_self hrest]

/-- Settles O48: the rest of the command runs on the state with the wait ended. -/
theorem resumeFinishesCommand : Obligations.ResumeFinishesCommand := by
  intro s kind q rest hc ha hwait hdone hpmux hhold ended
  have hstep : step s = .next (ended.finish true rest) := by
    have hcond : waitCondition s.turned kind q = true :=
      (waitCondition_eq_true_iff s.turned kind q).mpr ⟨hdone, hpmux, hhold⟩
    exact (step_eq_turn hc ha).trans (congrArg _ (resumeEvent_of_condition (s := s.turned) hwait hcond))
  refine ⟨?_, ?_, ?_, ?_⟩
  · rintro rd p rfl
    exact ⟨_, hstep, ended.setReg_writesOnly rd _⟩
  · rintro (rfl | ⟨p, rfl⟩)
    · exact hstep
    · exact hstep
  · rintro p hp rfl
    exact ⟨_, hstep, ended.modPort_portOnly _ (hp.trans_le (Profile.nport_le_four hc))⟩
  · rintro p hp rfl
    exact ⟨_, hstep, ended.modPort_portOnly _ (hp.trans_le (Profile.nport_le_four hc))⟩

/-! ## The wait that goes on -/

/-- The wait is that of `s`, and every condition that held holds (60 R355). -/
def KeepsWait (s t : State) : Prop :=
  t.wait = s.wait ∧ ∀ kind q, waitCondition s kind q = true → waitCondition t kind q = true

namespace KeepsWait

variable {s t u : State}

theorem refl (s : State) : KeepsWait s s := ⟨rfl, fun _ _ h => h⟩

theorem trans (h : KeepsWait s t) (h' : KeepsWait t u) : KeepsWait s u :=
  ⟨h'.1.trans h.1, fun kind q hcond => h'.2 kind q (h.2 kind q hcond)⟩

/-- An update of a port that clears no `DSPHOLD`. -/
theorem modPort (s : State) (p : Nat) {f : Port → Port} (hf : ∀ pt, pt.dspHold = true → (f pt).dspHold = true) :
    KeepsWait s (s.modPort p f) := by
  refine ⟨rfl, fun kind q hcond => ?_⟩
  cases kind with
  | done | pmux => exact hcond
  | dspHold =>
    rw [waitCondition_dspHold] at hcond ⊢
    rw [State.port_modPort]
    split
    · next hq => exact hf _ (hq.1 ▸ hcond)
    · exact hcond

/-- The copies of a boundary only clear a pending bit and make the active port mux the staged one (44 R320). -/
theorem latch (s : State) (p : Nat) : KeepsWait s (s.latch p) := by
  refine ⟨rfl, fun kind q hcond => ?_⟩
  cases kind with
  | done =>
    rw [waitCondition_done, Bool.not_eq_true'] at hcond ⊢
    rw [State.latch_pend, getLsbD_and_not_bit, hcond, Bool.false_and]
  | pmux => exact decide_eq_true rfl
  | dspHold => exact hcond

theorem boundary (s : State) (p : Nat) : KeepsWait s (s.boundary p) := by
  cases h : s.pend.getLsbD p with
  | false => rw [boundary_of_not_pending s h]; exact .refl s
  | true => rw [boundary_of_pending s h]; exact .latch s p

theorem lineTick (s : State) (p : Nat) : KeepsWait s (s.lineTick p) := by
  rcases lineTick_cases s p with ⟨-, h⟩ | ⟨-, -, -, h⟩ | ⟨-, -, -, h⟩ <;> rw [h]
  · exact .refl s
  · exact .modPort s p fun _ hhold => hhold
  · refine .trans ?_ (.boundary _ p)
    exact .modPort s p fun _ hhold => hhold

theorem dspHoldEvent (s : State) (p : Nat) : KeepsWait s (s.dspHoldEvent p) := by
  rcases dspHoldEvent_cases s p with ⟨-, h⟩ | ⟨-, -, -, h⟩ <;> rw [h]
  · exact .refl s
  · exact .modPort s p fun _ _ => rfl

theorem busRead (s : State) (addr : Offset) : KeepsWait s (busRead addr s) := by
  cases h : memRead s addr with
  | none => rw [busRead_of_none h]; exact .refl s
  | some v => rw [busRead_of_some h]; exact .refl s

end KeepsWait

theorem State.finish_wait (s : State) (b : Bool) (rest : Resume) : (s.finish b rest).wait = s.wait := by
  rcases s.finish_cases b rest with h | ⟨rd, v, h⟩ | ⟨p, h⟩ | ⟨p, h⟩ <;> rw [h] <;> rfl

/-- With the condition true, the timer's turn and the block's own end the wait; every other turn but reset keeps it, and the
host's writes are held (20 R96, 60 R355). -/
theorem step_ends_or_keepsWait {s t : State} {kind : WaitKind} {q : Nat} {rest : Resume}
    (hwait : s.wait = .waiting kind q rest) (hcond : waitCondition s kind q = true) (h : step s = .next t)
    (hreset : nextAgent s ≠ .reset) : t.wait = .idle ∨ KeepsWait s.turned t := by
  obtain ⟨-, hstep⟩ := step_cases h
  rcases hstep with ⟨-, -, rfl⟩ | ⟨addr, ops, -, rfl⟩ | ⟨addr, v, ops, -, -, rfl⟩ | ⟨addr, v, ops, -, hidle, -⟩ |
    ⟨p, -, rfl⟩ | ⟨p, -, rfl⟩ | ⟨-, rfl⟩ | ⟨-, rfl⟩ | ⟨ha, -⟩
  · exact .inr (.refl _)
  · exact .inr (.busRead (s.taken ops) addr)
  · exact .inr (.refl _)
  · cases hwait.symm.trans hidle
  · exact .inr (.lineTick _ p)
  · exact .inr (.dspHoldEvent _ p)
  · rw [timeoutEvent_of_waiting (s := s.turned) hwait, State.finish_wait]
    exact .inl rfl
  · rw [resumeEvent_of_condition (s := s.turned) hwait hcond, State.finish_wait]
    exact .inl rfl
  · exact absurd ha hreset

/-- Settles O49: no turn but the poll timer's, the block's own and reset touches a wait, and none makes a condition false. -/
theorem waitConditionIsStable : Obligations.WaitConditionIsStable := by
  intro s t kind q rest hwait hcond h hreset
  exact (step_ends_or_keepsWait hwait hcond h hreset).imp_right fun ⟨hsame, hstays⟩ => ⟨hsame, hstays kind q hcond⟩

end Sys2Proof.Machine
end

section
/-! SUPPORT. The turn of reset (70_reset_and_hazards.md R380, R381). -/

namespace Sys2Proof.Machine

/-- Reset reads nothing of the block but its profile: every register comes from the reset state, and beside it only the host's
accesses, the turns left and the value last read stand (log entry 17). -/
theorem State.resetEvent_turned (s : State) :
    s.turned.resetEvent = { State.resetOf s.profile with
      hostOps := s.hostOps, schedule := s.schedule.tail, readData := s.readData } := by
  unfold State.resetEvent
  rw [State.turned_profile, State.turned_hostOps, State.turned_schedule, State.turned_readData]

/-- Settles O52: the step is the turn of reset, with no condition on what the block was doing. -/
theorem resetEventRestoresAll : Obligations.ResetEventRestoresAll := by
  intro s hc ha
  calc step s = turn .reset s.turned := step_eq_turn hc ha
    _ = .next s.turned.resetEvent := rfl
    _ = .next { State.resetOf s.profile with
          hostOps := s.hostOps, schedule := s.schedule.tail, readData := s.readData } :=
        congrArg Host.Outcome.next s.resetEvent_turned

end Sys2Proof.Machine
end
